-- ==== Sys2Proof/Word.lean ====
section
/-! DEFINITION. The word types of the block: every host access, command word, mask and sample is 32 bits wide
(00_scope.md R11 `P_WORD`, R17), every buffer byte and channel 8 bits (R15). -/

namespace Sys2Proof

/-- A register, a command word, a mask or an RGBA8 sample: 32 bits (R11, R17). -/
abbrev Word := BitVec 32

/-- A byte of `IBUF`, an entry of `ALUT` or one channel of a sample: 8 bits (R15). -/
abbrev Byte := BitVec 8

end Sys2Proof
end

