-- ==== Sys2Proof/Syntax.lean ====
section
/-! DEFINITION. The commands of the block: one constructor for each row of spec/opcode_table.json
(30_encoding.md R73, R77), with the fields its format has. -/

namespace Sys2Proof

/-- The transparency policy of `LUTC`, the `POL` bit (30_encoding.md R76). -/
inductive Policy
  /-- `POL = 0`: the four-colour table, no transparency branch. -/
  | four
  /-- `POL = 1`: the DXT1 table, which compares the endpoints and reads `CTRL.ALPHA_EN`. -/
  | dxt1
  deriving DecidableEq, Repr

/-- The commands, in the order of the opcode table. `src` is a byte offset into `IBUF`, `dst` an index of `OBUF`
(30_encoding.md R74 to R76). -/
inductive Instr
  /-- `NOP` (45_nop_unsupported.md R150). -/
  | nop
  /-- `PIX src, dst` (40_pix.md R91). -/
  | pix (src dst : BitVec 4)
  /-- `LUTC src, pol` (41_lut.md R110). -/
  | lutc (src : BitVec 4) (pol : Policy)
  /-- `LUTA src` (41_lut.md R113). -/
  | luta (src : BitVec 4)
  /-- `DXT1` (42_dxt1.md R121). -/
  | dxt1
  /-- `DXT2` (43_dxt23.md R131). -/
  | dxt2
  /-- `DXT3` (43_dxt23.md R132). -/
  | dxt3
  /-- `DXT4` (44_dxt45.md R141). -/
  | dxt4
  /-- `DXT5` (44_dxt45.md R142). -/
  | dxt5
  /-- `DX10`, the recognised, unsupported tag (45_nop_unsupported.md R151). -/
  | dx10
  /-- The reserved tag word `0x10` (45_nop_unsupported.md R152). -/
  | reservedTag0
  /-- The reserved tag word `0x17` (45_nop_unsupported.md R152). -/
  | reservedTag7
  /-- The reserved tag words `0x18` to `0x1F`; `tag` is the tag's number `OPC - 0x10`, 8 to 15 when well formed
  (30_encoding.md R77, 45_nop_unsupported.md R152). -/
  | reservedTag8To15 (tag : BitVec 4)
  deriving DecidableEq, Repr

end Sys2Proof
end

