-- ==== Sys2Proof/WellFormed.lean ====
section
/-! DEFINITION. Which terms of `Instr` stand for a command word. The operand fields have the width of their encoding
(30_encoding.md R73), so every `SRC`, `DST` and `POL` is well formed (R75, R76); the one check left is the tag number. -/

namespace Sys2Proof

/-- The tag numbers of the row `RESERVED_TAG_8_15`: the words `0x18` to `0x1F` (45_nop_unsupported.md R152). -/
def reservedTagInRow (tag : BitVec 4) : Bool := 8 ≤ tag.toNat

/-- A term of `Instr` that some command word decodes to. -/
def Instr.wellFormed : Instr → Bool
  | .nop => true
  | .pix _ _ => true
  | .lutc _ _ => true
  | .luta _ => true
  | .dxt1 => true
  | .dxt2 => true
  | .dxt3 => true
  | .dxt4 => true
  | .dxt5 => true
  | .dx10 => true
  | .reservedTag0 => true
  | .reservedTag7 => true
  | .reservedTag8To15 tag => reservedTagInRow tag

end Sys2Proof
end

