-- ==== Sys2Proof/Decode.lean ====
section
/-! DEFINITION. The decoder of 30_encoding.md R80, total on all 2^32 words, and after it the encoder, written from the
field positions of R73. `opcodeRow` is the row of spec/opcode_table.json each constructor stands for. -/

namespace Sys2Proof

/-- Why a word is no command: both reasons raise the fault `IllegalCommand` (30_encoding.md R79, 60_exceptions.md R185:
"unknown `OPC`, then format bits"). -/
inductive IllegalWord
  /-- `OPC` is `0x04` to `0x0F` or `0x20` to `0xFF`. -/
  | unknownOpcode
  /-- A bit outside the command's format is not zero (R78). -/
  | strayBits
  deriving DecidableEq, Repr

/-- What the decoder answers: a command, or the reason the word is illegal. -/
inductive Decoded
  | command (i : Instr)
  | illegal (why : IllegalWord)
  deriving DecidableEq, Repr

/-- `OPC = w[7:0]` (R74). -/
def opcOf (w : Word) : BitVec 8 := w.extractLsb' 0 8

/-- `SRC = w[11:8]` (R74). -/
def srcOf (w : Word) : BitVec 4 := w.extractLsb' 8 4

/-- `DST = w[15:12]` (R74). -/
def dstOf (w : Word) : BitVec 4 := w.extractLsb' 12 4

/-- `POL = w[16]` (R74). -/
def polOf (w : Word) : BitVec 1 := w.extractLsb' 16 1

/-- `w[31:17]`, always zero (R73). -/
def zeroOf (w : Word) : BitVec 15 := w.extractLsb' 17 15

/-- The policy a `POL` bit names (R76): 0 `FOUR`, 1 `DXT1`. -/
def policyOfBit (b : BitVec 1) : Policy := if b = 1#1 then .dxt1 else .four

/-- The `POL` bit of a policy (R76). -/
def policyBit : Policy → BitVec 1
  | .four => 0#1
  | .dxt1 => 1#1

/-- Bits 31:16 of format P are zero (R73). -/
def formatPOk (w : Word) : Bool := zeroOf w = 0#15 && polOf w = 0#1

/-- Bits 31:17 and 15:12 of format C are zero (R73). -/
def formatCOk (w : Word) : Bool := zeroOf w = 0#15 && dstOf w = 0#4

/-- Bits 31:12 of format S are zero (R73). -/
def formatSOk (w : Word) : Bool := formatPOk w && dstOf w = 0#4

/-- Bits 31:8 of format Z are zero (R73). -/
def formatZOk (w : Word) : Bool := formatSOk w && srcOf w = 0#4

/-- The command of a tag number `OPC - 0x10` (30_encoding.md R77, R80). -/
def tagCommand (tag : BitVec 4) : Instr :=
  if tag = 0x0#4 then .reservedTag0
  else if tag = 0x1#4 then .dxt1
  else if tag = 0x2#4 then .dxt2
  else if tag = 0x3#4 then .dxt3
  else if tag = 0x4#4 then .dxt4
  else if tag = 0x5#4 then .dxt5
  else if tag = 0x6#4 then .dx10
  else if tag = 0x7#4 then .reservedTag7
  else .reservedTag8To15 tag

/-- A word of a known opcode: its command when the format's other bits are zero, else illegal (R78). -/
def checked (formatOk : Bool) (i : Instr) : Decoded := if formatOk then .command i else .illegal .strayBits

/-- The decoder of R80. The format check comes before the tag check. -/
def decode (w : Word) : Decoded :=
  if opcOf w = 0x00#8 then checked (formatZOk w) .nop
  else if opcOf w = 0x01#8 then checked (formatPOk w) (.pix (srcOf w) (dstOf w))
  else if opcOf w = 0x02#8 then checked (formatCOk w) (.lutc (srcOf w) (policyOfBit (polOf w)))
  else if opcOf w = 0x03#8 then checked (formatSOk w) (.luta (srcOf w))
  else if (opcOf w).extractLsb' 4 4 = 0x1#4 then checked (formatZOk w) (tagCommand ((opcOf w).extractLsb' 0 4))
  else .illegal .unknownOpcode

/-- A word from its fields, `OPC + SRC*0x100 + DST*0x1000 + POL*0x10000` (R73, R81). -/
def wordOfFields (opc : BitVec 8) (src dst : BitVec 4) (pol : BitVec 1) : Word :=
  BitVec.ofNat 32 (opc.toNat + src.toNat * 0x100 + dst.toNat * 0x1000 + pol.toNat * 0x10000)

/-- A word of format Z (R73). -/
def wordZ (opc : BitVec 8) : Word := wordOfFields opc 0#4 0#4 0#1

/-- The word of a command (R77, R81). -/
def encode : Instr → Word
  | .nop => wordZ 0x00#8
  | .pix src dst => wordOfFields 0x01#8 src dst 0#1
  | .lutc src pol => wordOfFields 0x02#8 src 0#4 (policyBit pol)
  | .luta src => wordOfFields 0x03#8 src 0#4 0#1
  | .dxt1 => wordZ 0x11#8
  | .dxt2 => wordZ 0x12#8
  | .dxt3 => wordZ 0x13#8
  | .dxt4 => wordZ 0x14#8
  | .dxt5 => wordZ 0x15#8
  | .dx10 => wordZ 0x16#8
  | .reservedTag0 => wordZ 0x10#8
  | .reservedTag7 => wordZ 0x17#8
  | .reservedTag8To15 tag => wordZ (0x10#8 + tag.setWidth 8)

/-- What the decoder reads from the low `nbits` bits of `w`, the bits above being zero: the numbering of
spec/opcode_table.json, bit 0 the least significant (00_scope.md R12). A command is one 32-bit word (R72). -/
def decodeTableWord (nbits w : Nat) : Option Instr :=
  match decode (BitVec.ofNat 32 (w % 2 ^ nbits)) with
  | .command i => some i
  | .illegal _ => none

/-- A row of the opcode table: a word belongs to the row when its bits under `mask` are those of `value`
(the table's "match"). -/
structure OpcodeRow where
  value : Word
  mask : Word
  deriving DecidableEq, Repr

/-- The row of spec/opcode_table.json that a constructor stands for. -/
def opcodeRow : Instr → OpcodeRow
  | .nop => ⟨0x00000000#32, 0xFFFFFFFF#32⟩
  | .pix _ _ => ⟨0x00000001#32, 0xFFFF00FF#32⟩
  | .lutc _ _ => ⟨0x00000002#32, 0xFFFEF0FF#32⟩
  | .luta _ => ⟨0x00000003#32, 0xFFFFF0FF#32⟩
  | .dxt1 => ⟨0x00000011#32, 0xFFFFFFFF#32⟩
  | .dxt2 => ⟨0x00000012#32, 0xFFFFFFFF#32⟩
  | .dxt3 => ⟨0x00000013#32, 0xFFFFFFFF#32⟩
  | .dxt4 => ⟨0x00000014#32, 0xFFFFFFFF#32⟩
  | .dxt5 => ⟨0x00000015#32, 0xFFFFFFFF#32⟩
  | .dx10 => ⟨0x00000016#32, 0xFFFFFFFF#32⟩
  | .reservedTag0 => ⟨0x00000010#32, 0xFFFFFFFF#32⟩
  | .reservedTag7 => ⟨0x00000017#32, 0xFFFFFFFF#32⟩
  | .reservedTag8To15 _ => ⟨0x00000018#32, 0xFFFFFFF8#32⟩

/-- The word belongs to the row. -/
def OpcodeRow.holds (r : OpcodeRow) (w : Word) : Bool := w &&& r.mask = r.value

end Sys2Proof
end

