-- ==== Sys2Proof/Config.lean ====
section
/-! DEFINITION. What is fixed for the block and is not state: the parameters of 00_scope.md R11, the values the
parameter `P_S2LE` can take, and the one free value of the spec, the buffer contents after a reset (`P_BUF_RESET`). -/

namespace Sys2Proof

/-- The two legal values of the parameter `P_S2LE`: what entry 2 of the DXT1 colour table is when `c0 <= c1`
(R11, 41_lut.md R106). `thirds` is the value at which the spec is normative. -/
inductive S2LE
  | thirds
  | average
  deriving DecidableEq, Repr

/-- The four buffers whose contents a reset leaves unspecified (10_state.md R40, R11 `P_BUF_RESET`). -/
structure Buffers where
  ibuf : Vector Byte 16
  obuf : Vector Word 16
  clut : Vector Word 4
  alut : Vector Byte 8
  deriving DecidableEq, Repr

namespace Config

/-- `P_WINDOW`: the register window's size in bytes (R11). -/
def windowBytes : Nat := 256

/-- `P_WORD`: the width of every host access in bits (R11, 20_memory.md R52). -/
def accessBits : Nat := 32

/-- `P_IBUF_BYTES`: the size of the input buffer (R11). -/
def ibufBytes : Nat := 16

/-- `P_ID`: the constant the `ID` register reads as (R11, 10_state.md R22). -/
def idValue : Word := 0x44445337#32

/-! FREE VALUES (log 2): what the buffers hold after a reset during a run. R200: they "hold arbitrary values too, and a
model must not assume that a soft reset keeps, or clears, what they held". Each is applied to a counter, fresh at each
reset, to what all four buffers held before (so a reset that keeps its contents is among the cases), and to an index. -/

/-- FREE VALUE: `IBUF[k]` after the reset numbered `n`. -/
opaque resetIbuf : (n : Nat) → Buffers → (k : Nat) → Byte

/-- FREE VALUE: `OBUF[k]` after the reset numbered `n`. -/
opaque resetObuf : (n : Nat) → Buffers → (k : Nat) → Word

/-- FREE VALUE: `CLUT[k]` after the reset numbered `n`. -/
opaque resetClut : (n : Nat) → Buffers → (k : Nat) → Word

/-- FREE VALUE: `ALUT[k]` after the reset numbered `n`. -/
opaque resetAlut : (n : Nat) → Buffers → (k : Nat) → Byte

end Config

end Sys2Proof
end

