-- ==== Sys2Proof/Machine/State.lean ====
section
/-! DEFINITION. The state of the block (10_state.md R20), the model's own fields beside it (the host's program and what
the window answered, the parameter `P_S2LE`, the counter of the free reset contents), and the state after reset. -/

namespace Sys2Proof.Machine

/-- What the world outside the block does to it, one transition each (00_scope.md R9, 70_reset_and_hazards.md R202).
`off` is the byte offset in the register window and `width` the access width in bits; any value of either can be asked
for (20_memory.md R53), and a write of another width than 32 is refused whatever its value. -/
inductive HostAction
  /-- `HostRead(off)` (R50). -/
  | read (off width : Nat)
  /-- `HostWrite(off, v)` (R50). -/
  | write (off width : Nat) (v : Word)
  /-- The platform's reset of the block, between host actions (R200, R202). -/
  | hardReset
  deriving DecidableEq, Repr

/-- What the window answers to a host access (20_memory.md R50, R53). -/
inductive Answer
  /-- The value of a `HostRead`. -/
  | value (v : Word)
  /-- A `HostWrite` that was performed. -/
  | done
  /-- `HostAccessError`: the access was not performed and nothing changed (R53). -/
  | accessError
  deriving DecidableEq, Repr

/-- The state. The fields down to `alut` are the block's (R20; `ID` is a constant, `CMD` is no storage); the last four are
the model's own. -/
structure State where
  /-- `CTRL.ALPHA_EN` (R23, R24). -/
  alphaEn : Bool
  /-- `CTRL.PIXEL_BYTES`; all eight values can be stored (R23, R25). -/
  pixelBytes : BitVec 3
  /-- `STATUS.FAULT` (R27). -/
  fault : Bool
  /-- `STATUS.FCODE` (R27, R181). -/
  fcode : BitVec 4
  /-- `FCMD`, the command word that faulted (R28). -/
  fcmd : Word
  /-- `MASK_R` (R30). -/
  maskR : Word
  /-- `MASK_G` (R30). -/
  maskG : Word
  /-- `MASK_B` (R30). -/
  maskB : Word
  /-- `MASK_A` (R30). -/
  maskA : Word
  /-- `IBUF[0]` to `IBUF[15]` (R32). -/
  ibuf : Vector Byte 16
  /-- `OBUF[0]` to `OBUF[15]` (R33). -/
  obuf : Vector Word 16
  /-- `CLUT[0]` to `CLUT[3]` (R34). -/
  clut : Vector Word 4
  /-- `ALUT[0]` to `ALUT[7]` (R35). -/
  alut : Vector Byte 8
  /-- The model's own: the parameter `P_S2LE` the model takes as an argument (R11, R38); no action writes it (log 3). -/
  s2le : S2LE
  /-- The model's own: how many resets the run has had, the index of the next free buffer contents (log 2). -/
  resetCount : Nat
  /-- The model's own: the host actions still to be performed, next one first (R10, R21; log 4). -/
  program : List HostAction
  /-- The model's own: what the window answered, newest first (R208; log 7). -/
  answers : List Answer
  deriving DecidableEq, Repr

/-- Why a step stops with a fault: never. A `Fault` of the spec is latched in `STATUS` and `FCMD` and the block goes on
(60_exceptions.md R180, R184, R186), and a `HostAccessError` is an answer (R53), so no step of this block stops and the
type has no constructor (log 15). -/
inductive Fault
  deriving DecidableEq, Repr

/-- Why a step is refused. -/
inductive Refusal
  /-- Raised by an arm of `exec` for a command that has no meaning yet; safe. No arm of this model raises it. -/
  | notModelled (mnemonic : String)
  deriving DecidableEq, Repr

/-- The four buffers of a state (R40 `P_BUF_RESET`). -/
def State.buffers (s : State) : Buffers := { ibuf := s.ibuf, obuf := s.obuf, clut := s.clut, alut := s.alut }

/-- A launch state (10_state.md R40): every register at its reset value, and `P_BUF_RESET`, `P_S2LE` and the program as
given, "the model takes those values as part of the launch state". -/
def State.launch (bufs : Buffers) (p : S2LE) (program : List HostAction) : State :=
  { alphaEn := false, pixelBytes := 0#3, fault := false, fcode := 0#4, fcmd := 0#32,
    maskR := 0#32, maskG := 0#32, maskB := 0#32, maskA := 0#32,
    ibuf := bufs.ibuf, obuf := bufs.obuf, clut := bufs.clut, alut := bufs.alut,
    s2le := p, resetCount := 0, program := program, answers := [] }

/-- Buffer contents all zero: the model's choice for `State.reset` (log 1), no value of the spec. -/
def zeroBuffers : Buffers :=
  { ibuf := Vector.replicate 16 0#8, obuf := Vector.replicate 16 0#32,
    clut := Vector.replicate 4 0#32, alut := Vector.replicate 8 0#8 }

/-- The machine right after reset (R40, R200): registers as the spec says; the buffers, which the spec leaves open, zero
(log 1); `P_S2LE` at the value where the spec is normative (log 3); no host action pending (R201, log 4). -/
def State.reset : State := State.launch zeroBuffers .thirds []

end Sys2Proof.Machine
end

