-- ==== Sys2Proof/Machine/Flags.lean ====
section
/-! DEFINITION. The fault codes of 60_exceptions.md R181 and the register views of the fields software reads as words:
`CTRL` (10_state.md R23) and `STATUS` (R27). The block has no other flags (R36). -/

namespace Sys2Proof.Machine

/-- The causes of a fault (R181). -/
inductive FaultCode
  /-- A word that is no command (R79). -/
  | illegalCommand
  /-- `DX10` and the reserved tags (R151, R152). -/
  | unsupportedCompression
  /-- Operand bytes past `IBUF[15]` (R183). -/
  | ibufRange
  /-- `CTRL.PIXEL_BYTES` not 1 to 4 at a `PIX` (R182). -/
  | unsupportedPixelBytes
  deriving DecidableEq, Repr

/-- The code as `STATUS.FCODE` holds it (R181). -/
def faultBits : FaultCode → BitVec 4
  | .illegalCommand => 1#4
  | .unsupportedCompression => 2#4
  | .ibufRange => 3#4
  | .unsupportedPixelBytes => 4#4

/-- What `HostRead(0x08)` returns: `FCODE * 16 + FAULT`, so every other bit is 0 (R27). -/
def statusWord (s : State) : Word := BitVec.ofNat 32 (s.fcode.toNat * 16 + s.fault.toNat)

/-- What `HostRead(0x04)` returns: `PIXEL_BYTES * 16 + ALPHA_EN`, so every other bit is 0, `SRST` too (R23). -/
def ctrlWord (s : State) : Word := BitVec.ofNat 32 (s.pixelBytes.toNat * 16 + s.alphaEn.toNat)

/-- The `ALPHA_EN` field of a value written to `CTRL` (R23). -/
def ctrlAlphaEn (v : Word) : Bool := v.getLsbD 0

/-- The `PIXEL_BYTES` field of a value written to `CTRL` (R23). -/
def ctrlPixelBytes (v : Word) : BitVec 3 := v.extractLsb' 4 3

/-- A value written to `CTRL` asks for the soft reset (R26). -/
def ctrlSrst (v : Word) : Bool := v.getLsbD 31

/-- A value written to `STATUS` clears the fault (R27). -/
def statusClears (v : Word) : Bool := v.getLsbD 0

end Sys2Proof.Machine
end

