-- ==== Sys2Proof/Machine/Operands.lean ====
section
/-! DEFINITION. Every operand form: how bytes of `IBUF` are read (00_scope.md R16), how an operand range is checked
(60_exceptions.md R183), how a sample is packed from channels (R17), and how the selector fields of a block are cut out
(41_lut.md R108, 43_dxt23.md R133, 44_dxt45.md R143). -/

namespace Sys2Proof.Machine

/-- `IBUF[k]`. No command reads an index above 15 (R183); the value given there is never used. -/
def ibufByte (s : State) (k : Nat) : Byte := if h : k < 16 then s.ibuf[k] else 0#8

/-- `MemRead(k, n)`: the little-endian value of `n` consecutive bytes from `IBUF[k]` (R16). -/
def memRead (s : State) (k : Nat) : Nat → Nat
  | 0 => 0
  | n + 1 => (ibufByte s k).toNat + 256 * memRead s (k + 1) n

/-- The operand bytes `IBUF[src]` to `IBUF[src + length - 1]` would pass `IBUF[15]` (R183). -/
def pastIbuf (src : BitVec 4) (length : Nat) : Bool := Config.ibufBytes < src.toNat + length

/-- A 16-bit colour endpoint at byte offset `k`, little-endian (41_lut.md R101). -/
def endpoint (s : State) (k : Nat) : BitVec 16 := BitVec.ofNat 16 (memRead s k 2)

/-- Four bytes as one 32-bit number, the first least significant: `b0 + b1*2^8 + b2*2^16 + b3*2^24`, the form of R16, R17
and of the packed table words of 10_state.md R35. -/
def packBytes (b0 b1 b2 b3 : Byte) : Word :=
  BitVec.ofNat 32 (b0.toNat + b1.toNat * 2 ^ 8 + b2.toNat * 2 ^ 16 + b3.toNat * 2 ^ 24)

/-- `rgba(r, g, b, a)`: red in bits 7:0, green 15:8, blue 23:16, alpha 31:24 (R17). -/
def rgba (r g b a : Byte) : Word := packBytes r g b a

/-- `s.R` (R17). -/
def sampleR (v : Word) : Byte := v.extractLsb' 0 8

/-- `s.G` (R17). -/
def sampleG (v : Word) : Byte := v.extractLsb' 8 8

/-- `s.B` (R17). -/
def sampleB (v : Word) : Byte := v.extractLsb' 16 8

/-- `s.A` (R17). -/
def sampleA (v : Word) : Byte := v.extractLsb' 24 8

/-- `CSel(base, e, col)`: the 2-bit colour selector of emission row `e`, column `col`, of an index field whose first
byte is `IBUF[base]`: bits `2*col+1 : 2*col` of byte `base + (3 - e)` (41_lut.md R108). -/
def cSel (s : State) (base e col : Nat) : BitVec 2 := (ibufByte s (base + (3 - e))).extractLsb' (2 * col) 2

/-- The explicit 4-bit alpha of a DXT2/DXT3 texel: the low nibble of byte `2*(3-e) + col/2` for an even column, the high
one for an odd column (43_dxt23.md R133). -/
def alphaNibble (s : State) (e col : Nat) : BitVec 4 :=
  (ibufByte s (2 * (3 - e) + col / 2)).extractLsb' (4 * (col % 2)) 4

/-- `A48`: the 48-bit field of alpha selectors of a DXT4/DXT5 block, `MemRead(2, 6)` (44_dxt45.md R140, R143). -/
def alphaField (s : State) : BitVec 48 := BitVec.ofNat 48 (memRead s 2 6)

/-- The 3-bit alpha selector of a DXT4/DXT5 texel: the bits of `A48` from offset `3*(4*(3-e)+col)` (R143). -/
def alphaSel (s : State) (e col : Nat) : BitVec 3 := (alphaField s).extractLsb' (3 * (4 * (3 - e) + col)) 3

/-- The colour table entry a selector picks. -/
def colourAt (table : Vector Word 4) (sel : BitVec 2) : Word := table[sel.toNat]'sel.isLt

/-- The alpha table entry a selector picks. -/
def alphaAt (table : Vector Byte 8) (sel : BitVec 3) : Byte := table[sel.toNat]'sel.isLt

end Sys2Proof.Machine
end

