-- ==== Sys2Proof/Machine/Ops.lean ====
section
/-! DEFINITION. The shared operations: entering and clearing a fault (60_exceptions.md R184, R188), reset
(70_reset_and_hazards.md R200), and the writes commands and the host make. Each is one record update. -/

namespace Sys2Proof.Machine

/-- Fault entry (R184): `FAULT`, `FCODE` and `FCMD` are written and nothing else changes. `w` is the whole faulting
command word (R181). -/
def raiseFault (code : FaultCode) (w : Word) (s : State) : State :=
  { s with fault := true, fcode := faultBits code, fcmd := w }

/-- The return from a fault, `clrf` (R27, R188): `FAULT`, `FCODE` and `FCMD` become 0 and nothing else changes. -/
def clearFault (s : State) : State := { s with fault := false, fcode := 0#4, fcmd := 0#32 }

/-- Reset during a run, soft or hard, which "have exactly the same effect" (R200): the registers take their reset values
(R40) and the four buffers take contents the spec leaves open (log 2). The host's program and answers are not the block's
and stay. -/
def resetBlock (s : State) : State :=
  { s with
    alphaEn := false, pixelBytes := 0#3, fault := false, fcode := 0#4, fcmd := 0#32,
    maskR := 0#32, maskG := 0#32, maskB := 0#32, maskA := 0#32,
    ibuf := Vector.ofFn fun k => Config.resetIbuf s.resetCount s.buffers k.val,
    obuf := Vector.ofFn fun k => Config.resetObuf s.resetCount s.buffers k.val,
    clut := Vector.ofFn fun k => Config.resetClut s.resetCount s.buffers k.val,
    alut := Vector.ofFn fun k => Config.resetAlut s.resetCount s.buffers k.val,
    resetCount := s.resetCount + 1 }

/-- A write to `CTRL` (R23, R26): the soft reset when bit 31 is set, else the two stored fields. -/
def writeCtrl (v : Word) (s : State) : State :=
  if ctrlSrst v then resetBlock s
  else { s with alphaEn := ctrlAlphaEn v, pixelBytes := ctrlPixelBytes v }

/-- A write to `STATUS` (R27): write-one-to-clear. -/
def writeStatus (v : Word) (s : State) : State := if statusClears v then clearFault s else s

/-- A write to the word `IBUFj` (20_memory.md R56): four bytes, the least significant at the lowest index. -/
def writeIbufWord (j : Fin 4) (v : Word) (s : State) : State :=
  { s with
    ibuf := (((s.ibuf.set (4 * j.val) (v.extractLsb' 0 8)).set (4 * j.val + 1) (v.extractLsb' 8 8)).set
      (4 * j.val + 2) (v.extractLsb' 16 8)).set (4 * j.val + 3) (v.extractLsb' 24 8) }

/-- `OBUF[dst] <- v`, the other samples unchanged (10_state.md R33). -/
def writeSample (dst : BitVec 4) (v : Word) (s : State) : State := { s with obuf := s.obuf.set dst.toNat v dst.isLt }

/-- All sixteen samples at once: `OBUF[4*e + col] <- texel e col` (41_lut.md R108). -/
def writeTexels (texel : Nat → Nat → Word) (s : State) : State :=
  { s with obuf := Vector.ofFn fun n => texel (n.val / 4) (n.val % 4) }

/-- The four entries of `CLUT` at once (10_state.md R34). -/
def writeClut (table : Vector Word 4) (s : State) : State := { s with clut := table }

/-- The eight entries of `ALUT` at once (10_state.md R35). -/
def writeAlut (table : Vector Byte 8) (s : State) : State := { s with alut := table }

/-- The window's answer to the host access just performed (log 7). -/
def answered (a : Answer) (s : State) : State := { s with answers := a :: s.answers }

end Sys2Proof.Machine
end

