-- ==== Sys2Proof/Machine/Lut.lean ====
section
/-! DEFINITION. The interpolation tables and the commands `LUTC` and `LUTA` (41_lut.md). Channels are natural numbers until
a sample is packed: every formula is on unbounded integers with floor division (00_scope.md R13). -/

namespace Sys2Proof.Machine

/-- Three colour channels, each 0 to 255. -/
structure Rgb where
  r : Nat
  g : Nat
  b : Nat
  deriving DecidableEq, Repr

/-- `Scale(v, n)`: an `n`-bit value rescaled to 8 bits (R100). -/
def scale (v n : Nat) : Nat := v * 255 / (2 ^ n - 1)

/-- `Unpack565(c)` (R102): red bits 15:11, green 10:5, blue 4:0, each rescaled. -/
def unpack565 (c : BitVec 16) : Rgb :=
  { r := scale (c.extractLsb' 11 5).toNat 5, g := scale (c.extractLsb' 5 6).toNat 6, b := scale (c.extractLsb' 0 5).toNat 5 }

/-- `(2*x + y)/3` on each channel (R103). -/
def Rgb.twoThirds (x y : Rgb) : Rgb :=
  { r := (2 * x.r + y.r) / 3, g := (2 * x.g + y.g) / 3, b := (2 * x.b + y.b) / 3 }

/-- `(x + y)/2` on each channel (R103, R106). -/
def Rgb.midpoint (x y : Rgb) : Rgb := { r := (x.r + y.r) / 2, g := (x.g + y.g) / 2, b := (x.b + y.b) / 2 }

/-- A table entry: three channels narrowed to 8 bits, and an alpha byte. -/
def Rgb.withAlpha (c : Rgb) (a : Byte) : Word := rgba (BitVec.ofNat 8 c.r) (BitVec.ofNat 8 c.g) (BitVec.ofNat 8 c.b) a

/-- The table has four interpolated colours: the policy is `FOUR`, or `c0 > c1` as one unsigned comparison of the packed
values (R103, R105). -/
def fourColours (c0 c1 : BitVec 16) : Policy → Bool
  | .four => true
  | .dxt1 => c1.toNat < c0.toNat

/-- Entry 2 of the colour table (R103, R106). -/
def entry2 (p : S2LE) (four : Bool) (x y : Rgb) : Word :=
  if four || p = .thirds then (x.twoThirds y).withAlpha 255#8 else (x.midpoint y).withAlpha 255#8

/-- Entry 3 of the colour table (R103, R104): `(x + 2*y)/3`, or black, transparent when `alphaEn`. -/
def entry3 (four alphaEn : Bool) (x y : Rgb) : Word :=
  if four then (y.twoThirds x).withAlpha 255#8
  else if alphaEn then rgba 0#8 0#8 0#8 0#8
  else rgba 0#8 0#8 0#8 255#8

/-- `ColourLUT(c0, c1, pol, alpha_en)` at `P_S2LE = p` (R103). -/
def colourLUT (p : S2LE) (c0 c1 : BitVec 16) (pol : Policy) (alphaEn : Bool) : Vector Word 4 :=
  #v[(unpack565 c0).withAlpha 255#8, (unpack565 c1).withAlpha 255#8,
     entry2 p (fourColours c0 c1 pol) (unpack565 c0) (unpack565 c1),
     entry3 (fourColours c0 c1 pol) alphaEn (unpack565 c0) (unpack565 c1)]

/-- Entry `k+1` of the alpha table's `n`-step scale: `((n-k)*a0 + k*a1)/n` (R107, R109). -/
def alphaStep (n k : Nat) (a0 a1 : Byte) : Byte := BitVec.ofNat 8 (((n - k) * a0.toNat + k * a1.toNat) / n)

/-- `AlphaLUT(a0, a1)` (R107): the 7-step scale when `a0 > a1` (unsigned, strict), else the 5-step scale, 0 and 255. -/
def alphaLUT (a0 a1 : Byte) : Vector Byte 8 :=
  if a1.toNat < a0.toNat then
    #v[a0, a1, alphaStep 7 1 a0 a1, alphaStep 7 2 a0 a1, alphaStep 7 3 a0 a1, alphaStep 7 4 a0 a1, alphaStep 7 5 a0 a1,
       alphaStep 7 6 a0 a1]
  else
    #v[a0, a1, alphaStep 5 1 a0 a1, alphaStep 5 2 a0 a1, alphaStep 5 3 a0 a1, alphaStep 5 4 a0 a1, 0#8, 255#8]

/-- The colour table of the endpoints at `IBUF[k..k+3]`: `c0` first (R101). -/
def colourTableAt (s : State) (k : Nat) (pol : Policy) (alphaEn : Bool) : Vector Word 4 :=
  colourLUT s.s2le (endpoint s k) (endpoint s (k + 2)) pol alphaEn

/-- The alpha table of the endpoints at `IBUF[k]`, `IBUF[k+1]` (R113). -/
def alphaTableAt (s : State) (k : Nat) : Vector Byte 8 := alphaLUT (ibufByte s k) (ibufByte s (k + 1))

/-- `LUTC src, pol` (R110). -/
def execLutc (src : BitVec 4) (pol : Policy) (s : State) : Host.Outcome State Fault Refusal :=
  if pastIbuf src 4 then .next (raiseFault .ibufRange (encode (.lutc src pol)) s)
  else .next (writeClut (colourTableAt s src.toNat pol s.alphaEn) s)

/-- `LUTA src` (R113). -/
def execLuta (src : BitVec 4) (s : State) : Host.Outcome State Fault Refusal :=
  if pastIbuf src 2 then .next (raiseFault .ibufRange (encode (.luta src)) s)
  else .next (writeAlut (alphaTableAt s src.toNat) s)

end Sys2Proof.Machine
end

