-- ==== Sys2Proof/Machine/Dxt.lean ====
section
/-! DEFINITION. The block decompressor: `DXT1` (42_dxt1.md), `DXT2` and `DXT3` (43_dxt23.md), `DXT4` and `DXT5`
(44_dxt45.md). Every table and texel is read from the state before the command (00_scope.md R15). -/

namespace Sys2Proof.Machine

/-- A colour with its alpha byte replaced: `rgba(E.R, E.G, E.B, a)` (R131, R141). -/
def replaceAlpha (v : Word) (a : Byte) : Word := rgba (sampleR v) (sampleG v) (sampleB v) a

/-- The colour table of a DXT1 block: endpoints at bytes 0 to 3, policy `DXT1` (R120, R121). -/
def dxt1Table (s : State) : Vector Word 4 := colourTableAt s 0 .dxt1 s.alphaEn

/-- The colour table of a DXT2 to DXT5 block: endpoints at bytes 8 to 11, no transparency branch (R131, R141, R144). -/
def dxt2345Table (s : State) : Vector Word 4 := colourTableAt s 8 .four false

/-- A texel of a DXT1 block (R121). -/
def dxt1Texel (s : State) (e col : Nat) : Word := colourAt (dxt1Table s) (cSel s 4 e col)

/-- The 8-bit alpha of a DXT2/DXT3 texel: `Scale(n, 4)` of its nibble (R131, R133). -/
def explicitAlpha (s : State) (e col : Nat) : Byte := BitVec.ofNat 8 (scale (alphaNibble s e col).toNat 4)

/-- A texel of a DXT2/DXT3 block (R131). -/
def dxt23Texel (s : State) (e col : Nat) : Word :=
  replaceAlpha (colourAt (dxt2345Table s) (cSel s 12 e col)) (explicitAlpha s e col)

/-- A texel of a DXT4/DXT5 block (R141). -/
def dxt45Texel (s : State) (e col : Nat) : Word :=
  replaceAlpha (colourAt (dxt2345Table s) (cSel s 12 e col)) (alphaAt (alphaTableAt s 0) (alphaSel s e col))

/-- `Decode23()` (R131). -/
def decode23 (s : State) : State := writeTexels (dxt23Texel s) (writeClut (dxt2345Table s) s)

/-- `Decode45()` (R141). -/
def decode45 (s : State) : State :=
  writeTexels (dxt45Texel s) (writeClut (dxt2345Table s) (writeAlut (alphaTableAt s 0) s))

/-- `DXT1` (R121). -/
def execDxt1 (s : State) : Host.Outcome State Fault Refusal := .next (writeTexels (dxt1Texel s) (writeClut (dxt1Table s) s))

/-- `DXT2` (R131). -/
def execDxt2 (s : State) : Host.Outcome State Fault Refusal := .next (decode23 s)

/-- `DXT3`: exactly the decode of `DXT2` (R132). -/
def execDxt3 (s : State) : Host.Outcome State Fault Refusal := .next (decode23 s)

/-- `DXT4` (R141). -/
def execDxt4 (s : State) : Host.Outcome State Fault Refusal := .next (decode45 s)

/-- `DXT5`: exactly the decode of `DXT4` (R142). -/
def execDxt5 (s : State) : Host.Outcome State Fault Refusal := .next (decode45 s)

end Sys2Proof.Machine
end

