-- ==== Sys2Proof/Machine/Pix.lean ====
section
/-! DEFINITION. The uncompressed pixel bitmask extractor and its command `PIX` (40_pix.md). -/

namespace Sys2Proof.Machine

/-- `ctz32(m)`: the zero bits below the lowest set bit of `m` (00_scope.md R14); never used at `m = 0`. -/
def ctz32 (m : Word) : Nat := (List.range 32).findIdx fun i => m.getLsbD i

/-- `popcount32(m)`: the set bits of `m` (R14). -/
def popcount32 (m : Word) : Nat := (List.range 32).countP fun i => m.getLsbD i

/-- `Lane(word, m)` (R90): mask, shift down, rescale to 8 bits with an unbounded product and floor division, keep
8 bits. A zero mask gives 0 (R94). -/
def lane (word m : Word) : Byte :=
  if m = 0#32 then 0#8
  else BitVec.ofNat 8 (((word &&& m).toNat >>> ctz32 m) * 255 / (2 ^ popcount32 m - 1))

/-- The pixel word: `PB` bytes little-endian, zero above (R92). -/
def pixelWord (s : State) (src : BitVec 4) : Word := BitVec.ofNat 32 (memRead s src.toNat s.pixelBytes.toNat)

/-- The sample of a pixel word: each channel its own lane (R91, R93). -/
def pixelSample (s : State) (word : Word) : Word :=
  rgba (lane word s.maskR) (lane word s.maskG) (lane word s.maskB) (lane word s.maskA)

/-- `CTRL.PIXEL_BYTES` is a count `PIX` supports, 1 to 4 (60_exceptions.md R182). -/
def pixelBytesOk (s : State) : Bool := 1 ≤ s.pixelBytes.toNat && s.pixelBytes.toNat ≤ 4

/-- `PIX src, dst` (R91). The faults come in the order of 60_exceptions.md R185. -/
def execPix (src dst : BitVec 4) (s : State) : Host.Outcome State Fault Refusal :=
  if !pixelBytesOk s then .next (raiseFault .unsupportedPixelBytes (encode (.pix src dst)) s)
  else if pastIbuf src s.pixelBytes.toNat then .next (raiseFault .ibufRange (encode (.pix src dst)) s)
  else .next (writeSample dst (pixelSample s (pixelWord s src)) s)

end Sys2Proof.Machine
end

