-- ==== Sys2Proof/Machine/System.lean ====
section
/-! DEFINITION. `NOP`, `DX10` and the reserved tag words (45_nop_unsupported.md). -/

namespace Sys2Proof.Machine

/-- `NOP` (R150): nothing is read and nothing is written. -/
def execNop (s : State) : Host.Outcome State Fault Refusal := .next s

/-- `DX10` (R151): raises `UnsupportedCompression`. -/
def execDx10 (s : State) : Host.Outcome State Fault Refusal := .next (raiseFault .unsupportedCompression (encode .dx10) s)

/-- The reserved tag word `0x10` (R152): does exactly what `DX10` does, `FCMD` holding its own word. -/
def execReservedTag0 (s : State) : Host.Outcome State Fault Refusal :=
  .next (raiseFault .unsupportedCompression (encode .reservedTag0) s)

/-- The reserved tag word `0x17` (R152). -/
def execReservedTag7 (s : State) : Host.Outcome State Fault Refusal :=
  .next (raiseFault .unsupportedCompression (encode .reservedTag7) s)

/-- The reserved tag words `0x18` to `0x1F` (R152). -/
def execReservedTag8To15 (tag : BitVec 4) (s : State) : Host.Outcome State Fault Refusal :=
  .next (raiseFault .unsupportedCompression (encode (.reservedTag8To15 tag)) s)

end Sys2Proof.Machine
end

