-- ==== Sys2Proof/Machine/Dispatch.lean ====
section
/-! DEFINITION. One arm per command: the rule of the command, after the gate and the decoder let it through
(30_encoding.md R70). -/

namespace Sys2Proof.Machine

def exec (i : Instr) (s : State) : Host.Outcome State Fault Refusal :=
  match i with
  | .nop => Sys2Proof.Machine.execNop s
  | .pix src dst => Sys2Proof.Machine.execPix src dst s
  | .lutc src pol => Sys2Proof.Machine.execLutc src pol s
  | .luta src => Sys2Proof.Machine.execLuta src s
  | .dxt1 => Sys2Proof.Machine.execDxt1 s
  | .dxt2 => Sys2Proof.Machine.execDxt2 s
  | .dxt3 => Sys2Proof.Machine.execDxt3 s
  | .dxt4 => Sys2Proof.Machine.execDxt4 s
  | .dxt5 => Sys2Proof.Machine.execDxt5 s
  | .dx10 => Sys2Proof.Machine.execDx10 s
  | .reservedTag0 => Sys2Proof.Machine.execReservedTag0 s
  | .reservedTag7 => Sys2Proof.Machine.execReservedTag7 s
  | .reservedTag8To15 tag => Sys2Proof.Machine.execReservedTag8To15 tag s

end Sys2Proof.Machine
end

