-- ==== Sys2Proof/Machine/Command.lean ====
section
/-! DEFINITION. How a command word is taken: the gate, then the decoder, then the command's rule
(30_encoding.md R70, R71, R80). -/

namespace Sys2Proof.Machine

/-- A word that passed the gate: decoded and executed, or the fault `IllegalCommand` (R79). -/
def runDecoded (w : Word) (s : State) : Host.Outcome State Fault Refusal :=
  match decode w with
  | .command i => exec i s
  | .illegal _ => .next (raiseFault .illegalCommand w s)

/-- A word handed to the block (R70): while `STATUS.FAULT = 1` it is dropped, nothing read and nothing written (R71). -/
def runCommand (w : Word) (s : State) : Host.Outcome State Fault Refusal :=
  if s.fault then .next s else runDecoded w s

end Sys2Proof.Machine
end

