-- ==== Sys2Proof/Machine/Window.lean ====
section
/-! DEFINITION. The register window: the map of 10_state.md R20, what each register reads as and what a write to it does
(20_memory.md R50 to R57), but for the write to `CMD`, which starts a command. -/

namespace Sys2Proof.Machine

/-- The registers of the window (R20). -/
inductive Reg
  | id
  | ctrl
  | status
  | cmd
  | fcmd
  | maskR
  | maskG
  | maskB
  | maskA
  | ibuf (j : Fin 4)
  | clut (i : Fin 4)
  | alutLo
  | alutHi
  | obuf (n : Fin 16)
  deriving DecidableEq, Repr

/-- The byte offset of a register (R20). -/
def regOffset : Reg → Nat
  | .id => 0x00
  | .ctrl => 0x04
  | .status => 0x08
  | .cmd => 0x0C
  | .fcmd => 0x10
  | .maskR => 0x20
  | .maskG => 0x24
  | .maskB => 0x28
  | .maskA => 0x2C
  | .ibuf j => 0x30 + 4 * j.val
  | .clut i => 0x40 + 4 * i.val
  | .alutLo => 0x50
  | .alutHi => 0x54
  | .obuf n => 0x80 + 4 * n.val

/-- Every register of the window. -/
def allRegs : List Reg :=
  List.flatten
    [[.id, .ctrl, .status, .cmd, .fcmd, .maskR, .maskG, .maskB, .maskA],
     List.map (fun j => Reg.ibuf j) (List.finRange 4), List.map (fun i => Reg.clut i) (List.finRange 4),
     [.alutLo, .alutHi], List.map (fun n => Reg.obuf n) (List.finRange 16)]

/-- The register at an offset; none where the offset is unmapped (R20, R53). -/
def regAt (off : Nat) : Option Reg := allRegs.find? fun r => regOffset r == off

/-- The register a host access reaches: none for another width than 32 bits, an offset that is no multiple of 4, an offset
outside the window or an unmapped one (R52, R53). -/
def accessedReg (off width : Nat) : Option Reg :=
  if width ≠ Config.accessBits then none
  else if off % 4 ≠ 0 then none
  else if Config.windowBytes ≤ off then none
  else regAt off

/-- `ALUT[i]`. -/
def alutByte (s : State) (i : Fin 8) : Byte := s.alut[i]

/-- What a `HostRead` of a register returns; none for the write-only `CMD` (R29, R54, R56, R57). -/
def readReg (r : Reg) (s : State) : Option Word :=
  match r with
  | .id => some Config.idValue
  | .ctrl => some (ctrlWord s)
  | .status => some (statusWord s)
  | .cmd => none
  | .fcmd => some s.fcmd
  | .maskR => some s.maskR
  | .maskG => some s.maskG
  | .maskB => some s.maskB
  | .maskA => some s.maskA
  | .ibuf j => some (BitVec.ofNat 32 (memRead s (4 * j.val) 4))
  | .clut i => some s.clut[i]
  | .alutLo => some (packBytes (alutByte s 0) (alutByte s 1) (alutByte s 2) (alutByte s 3))
  | .alutHi => some (packBytes (alutByte s 4) (alutByte s 5) (alutByte s 6) (alutByte s 7))
  | .obuf n => some s.obuf[n]

/-- What a `HostWrite` to a register other than `CMD` does; none for the read-only registers (R53, R55). Writes are
performed whatever `STATUS.FAULT` is (R55). -/
def writeReg (r : Reg) (v : Word) (s : State) : Option State :=
  match r with
  | .id => none
  | .ctrl => some (writeCtrl v s)
  | .status => some (writeStatus v s)
  | .cmd => none
  | .fcmd => none
  | .maskR => some { s with maskR := v }
  | .maskG => some { s with maskG := v }
  | .maskB => some { s with maskB := v }
  | .maskA => some { s with maskA := v }
  | .ibuf j => some (writeIbufWord j v s)
  | .clut _ => none
  | .alutLo => none
  | .alutHi => none
  | .obuf _ => none

/-- The answer to a `HostRead` (R53, R54). -/
def readAnswer (off width : Nat) (s : State) : Answer :=
  match accessedReg off width with
  | none => .accessError
  | some r =>
    match readReg r s with
    | none => .accessError
    | some v => .value v

end Sys2Proof.Machine
end

