-- ==== Sys2Proof/Machine/HostPort.lean ====
section
/-! DEFINITION. The block's one port: what a host action does, as one atomic transition with the command it starts
(00_scope.md R9, 20_memory.md R61). -/

namespace Sys2Proof.Machine

/-- A `HostWrite` (R53, R55, R70): refused with no state change, a command, or a register write. The answer is recorded
before the command runs; no command reads or writes answers. -/
def writeAccess (off width : Nat) (v : Word) (s : State) : Host.Outcome State Fault Refusal :=
  match accessedReg off width with
  | none => .next (answered .accessError s)
  | some .cmd => runCommand v (answered .done s)
  | some r =>
    match writeReg r v s with
    | none => .next (answered .accessError s)
    | some t => .next (answered .done t)

/-- One host action (R9, R202). A `HostRead` changes nothing in the block (R54). -/
def performAction (a : HostAction) (s : State) : Host.Outcome State Fault Refusal :=
  match a with
  | .read off width => .next (answered (readAnswer off width s) s)
  | .write off width v => writeAccess off width v s
  | .hardReset => .next (resetBlock s)

/-- The next host action of the program is taken off it and performed (R10, R61). With none left the block stays as it is:
it never acts on its own (R9, R201, R208; log 5). -/
def nextAction (s : State) : Host.Outcome State Fault Refusal :=
  match s.program with
  | [] => .next s
  | a :: rest => performAction a { s with program := rest }

/-- The host action that hands the word `w` to the block (30_encoding.md R70). -/
def commandWrite (w : Word) : HostAction := .write (regOffset .cmd) Config.accessBits w

end Sys2Proof.Machine
end

