-- ==== Sys2Proof/Machine/Step.lean ====
section
/-! DEFINITION. One step: one host action together with the command it starts (00_scope.md R9). -/

namespace Sys2Proof.Machine

/-- One step of the machine. -/
def step (s : State) : Host.Outcome State Fault Refusal := nextAction s

/-- `s` with the command whose low `nbits` bits are those of `w` placed where the next step takes it: as the host's next
action, a `HostWrite` to `CMD` (30_encoding.md R70; log 4). The block fetches nothing (10_state.md R21). -/
def State.withFetchWord (s : State) (nbits w : Nat) : State :=
  { s with program := commandWrite (BitVec.ofNat 32 (w % 2 ^ nbits)) :: s.program }

end Sys2Proof.Machine
end

