-- ==== Sys2Proof/Machine/HostContract.lean ====
section
/-! DEFINITION. The host's side of the source (46_downstream_contract.md): out of scope as hardware (00_scope.md R6), kept
as plain functions because the block's output order means nothing without them. They drive the block through its port, by the
host actions a step performs; no step of the machine calls anything here (log 17). Also the assembler lines of
30_encoding.md R82 and R83, as host actions. -/

namespace Sys2Proof.Machine

/-- `wr REG, v` (R82). -/
def wr (r : Reg) (v : Word) : HostAction := .write (regOffset r) Config.accessBits v

/-- `rd REG` (R82). -/
def rd (r : Reg) : HostAction := .read (regOffset r) Config.accessBits

/-- A command line: `nop`, `pix src, dst`, ... `dx10` (R82). -/
def cmdLine (i : Instr) : HostAction := commandWrite (encode i)

/-- `cfg pb, alpha` (R83). -/
def cfg (pixelBytes : BitVec 3) (alphaEn : Bool) : HostAction :=
  wr .ctrl (BitVec.ofNat 32 (pixelBytes.toNat * 16 + alphaEn.toNat))

/-- `clrf` (R83). -/
def clrf : HostAction := wr .status 0x00000001#32

/-- `srst` (R83). -/
def srst : HostAction := wr .ctrl 0x80000000#32

/-- `setmask r, g, b, a` (R83). -/
def setmask (r g b a : Word) : List HostAction := [wr .maskR r, wr .maskG g, wr .maskB b, wr .maskA a]

/-- Four stream bytes as the word that puts them into `IBUF4j` to `IBUF4j+3` (R56, R83). -/
def streamWord (bytes : List Byte) (j : Nat) : Word :=
  packBytes (bytes.getD (4 * j) 0#8) (bytes.getD (4 * j + 1) 0#8) (bytes.getD (4 * j + 2) 0#8) (bytes.getD (4 * j + 3) 0#8)

/-- `ldib8 b0 ... b7` (R83). -/
def ldib8 (bytes : List Byte) : List HostAction := [wr (.ibuf 0) (streamWord bytes 0), wr (.ibuf 1) (streamWord bytes 1)]

/-- `ldib b0 b1 ... b15` (R83). -/
def ldib (bytes : List Byte) : List HostAction :=
  ldib8 bytes ++ [wr (.ibuf 2) (streamWord bytes 2), wr (.ibuf 3) (streamWord bytes 3)]

/-- The compression tags of the source: "DXT1..DXT5, DX10, None, Other-raw-4-byte-code" (30_encoding.md R77, R165). -/
inductive Tag
  | none
  | dxt1
  | dxt2
  | dxt3
  | dxt4
  | dxt5
  | dx10
  | other (code : Word)
  deriving DecidableEq, Repr

/-- How the host's decode of a file can fail, as a whole and without any image (R165, R166, R167, 60_exceptions.md R193). -/
inductive HostError
  /-- A tag other than `None` and `DXT1` to `DXT5` (R165). -/
  | unsupportedCompression (tag : Tag)
  /-- Fewer bytes remain than the level's span (R166). -/
  | bufferTooShort
  /-- The block latched a fault: what `STATUS` read as (R167). -/
  | blockFault (status : Word)
  /-- The block did not answer one of the host's own accesses (R167). No sequence of this file meets it. -/
  | accessFailed
  /-- No error of the source but the model's refusal to claim anything about a level of width or height 0
  (93_implementation_defined.md U14, log 17). -/
  | zeroDimension
  deriving DecidableEq, Repr

/-- The command the dispatcher uses for one unit of a level; none for a tag that fails the whole decode. For `None` it is
`pix`, here the one for the first pixel of the buffer (R165). -/
def unitCommand : Tag → Option Instr
  | .none => some (.pix 0#4 0#4)
  | .dxt1 => some .dxt1
  | .dxt2 => some .dxt2
  | .dxt3 => some .dxt3
  | .dxt4 => some .dxt4
  | .dxt5 => some .dxt5
  | .dx10 => Option.none
  | .other _ => Option.none

/-- The Mip Layer Sizer: `(H >> i, W >> i)` for `i = 0` to `max(M,1) - 1` (R161). -/
def levelDims (height width mips : Nat) : List (Nat × Nat) :=
  (List.range (max mips 1)).map fun i => (height >>> i, width >>> i)

/-- `ceil(max(n,4)/4)*4` (R162, R164). -/
def roundUp4 (n : Nat) : Nat := (max n 4 + 3) / 4 * 4

/-- The bytes of one level (R162); none for a tag that fails the whole decode. Not consulted for a level of width or height 0
(`takeLevels`). -/
def levelSpan (tag : Tag) (pixelBytes height width : Nat) : Option Nat :=
  match tag with
  | .none => some (height * width * pixelBytes)
  | .dxt1 => some (roundUp4 height * roundUp4 width / 2)
  | .dxt2 => some (roundUp4 height * roundUp4 width)
  | .dxt3 => some (roundUp4 height * roundUp4 width)
  | .dxt4 => some (roundUp4 height * roundUp4 width)
  | .dxt5 => some (roundUp4 height * roundUp4 width)
  | .dx10 => Option.none
  | .other _ => Option.none

/-- A level with its own bytes of the input. -/
structure Level where
  height : Nat
  width : Nat
  bytes : List Byte
  deriving DecidableEq, Repr

/-- The dispatcher's walk over the levels: each takes its span from the cursor, in level order, and the decode fails as a
whole when fewer bytes remain (R165, R166). A level of width or height 0 is refused (U14, log 17). -/
def takeLevels (tag : Tag) (pixelBytes : Nat) : List (Nat × Nat) → List Byte → Except HostError (List Level)
  | [], _ => .ok []
  | (height, width) :: rest, input =>
    match levelSpan tag pixelBytes height width with
    | Option.none => .error (.unsupportedCompression tag)
    | some span =>
      if height = 0 ∨ width = 0 then .error .zeroDimension
      else if input.length < span then .error .bufferTooShort
      else
        match takeLevels tag pixelBytes rest (input.drop span) with
        | .error e => .error e
        | .ok levels => .ok ({ height := height, width := width, bytes := input.take span } :: levels)

/-- The image's configuration: masks in the order red, green, blue, alpha, then `CTRL`, once per image (R163, R168, R169). -/
def configureImage (pixelBytes : BitVec 3) (alphaEn : Bool) (r g b a : Word) : List HostAction :=
  setmask r g b a ++ [cfg pixelBytes alphaEn]

/-- `STATUS`, then the first `count` samples (R172). -/
def readBack (count : Nat) : List HostAction := rd .status :: ((List.finRange 16).take count).map fun n => rd (.obuf n)

/-- The host's sequence for one compressed block: load its 8 bytes for `DXT1`, else its 16, the command, `STATUS`, the
sixteen samples (R172). -/
def blockSequence (i : Instr) (bytes : List Byte) : List HostAction :=
  (if i = .dxt1 then ldib8 bytes else ldib bytes) ++ [cmdLine i] ++ readBack 16

/-- Up to 16 bytes into `IBUF` from byte 0, by as many words as they need (R163). Where they end inside a word its other bytes
are zero: no command of `pixelSequence` reads them. -/
def loadIbuf (bytes : List Byte) : List HostAction :=
  ((List.finRange 4).take ((bytes.length + 3) / 4)).map fun j => wr (.ibuf j) (streamWord bytes j.val)

/-- How many pixels the host loads at once when it would like to load `wanted`: "up to `16 / pixel_bytes` (rounded down)
pixels" (R163), and at least one. -/
def pixelsPerLoad (pixelBytes wanted : Nat) : Nat := max 1 (min wanted (Config.ibufBytes / pixelBytes))

/-- The host's sequence for `count` pixels that fit `IBUF` together: load their bytes, one `pix` for each with
`SRC = j * pixel_bytes` and `DST = j`, `STATUS`, the samples (R163). -/
def pixelSequence (pixelBytes count : Nat) (bytes : List Byte) : List HostAction :=
  loadIbuf bytes ++
    ((List.range count).map fun j => cmdLine (.pix (BitVec.ofNat 4 (j * pixelBytes)) (BitVec.ofNat 4 j))) ++ readBack count

/-- How many columns the rightmost block of a row of blocks contributes (R164). -/
def lastColumns (width : Nat) : Nat := if width % 4 = 0 then 4 else 4 - (roundUp4 width - width)

/-- One row of pixels of a band: block columns left to right, the rightmost cropped (R164). -/
def bandRow (width row : Nat) (band : List Word) : List Word :=
  (List.range (roundUp4 width / 4)).flatMap fun c =>
    (band.drop (16 * c + 4 * row)).take (if c + 1 = roundUp4 width / 4 then lastColumns width else 4)

/-- The Texel Reassembler (R164): bands of `4*w` samples; within a band the block-local rows from 3 down to 0; at the end
the padding rows truncated. -/
def reassemble (width height : Nat) (stream : List Word) : List Word :=
  ((List.range (roundUp4 height / 4)).flatMap fun b =>
    [3, 2, 1, 0].flatMap fun row =>
      bandRow width row ((stream.drop (4 * roundUp4 width * b)).take (4 * roundUp4 width))).take (width * height)

/-- Where the stream of decoded blocks holds the image pixel at column `x`, row `y`: sample `4*(3 - y mod 4) + x mod 4` of
block `(y/4)*(w/4) + x/4` (R164, the closed form). -/
def pixelIndex (width x y : Nat) : Nat :=
  16 * (y / 4 * (roundUp4 width / 4) + x / 4) + (4 * (3 - y % 4) + x % 4)

/-- The bytes of an image's pixels: R, G, B, A of each in address order (R57, R167). -/
def imageBytes (pixels : List Word) : List Byte := pixels.flatMap fun v => [sampleR v, sampleG v, sampleB v, sampleA v]

/-- The host performs its actions on the block, in order (R61). -/
def perform : List HostAction → State → Except HostError State
  | [], s => .ok s
  | a :: rest, s =>
    match performAction a s with
    | .next t => perform rest t
    | .fault _ => .error .accessFailed
    | .refused _ => .error .accessFailed

/-- The value an answer gives the host. -/
def Answer.read? : Answer → Option Word
  | .value v => some v
  | .done => none
  | .accessError => none

/-- What a sequence that ends in `readBack` gives the host: its samples, and the block as it stands after it. A fault that
`STATUS.FAULT`, bit 0 of what was read, shows fails the decode (R27, R167). -/
def unitSamples (actions : List HostAction) (s : State) : Except HostError (List Word × State) :=
  match perform actions s with
  | .error e => .error e
  | .ok t =>
    let answers := (t.answers.take (t.answers.length - s.answers.length)).reverse
    match answers.filterMap Answer.read? with
    | [] => .error .accessFailed
    | status :: samples =>
      if .accessError ∈ answers then .error .accessFailed
      else if status.getLsbD 0 then .error (.blockFault status)
      else .ok (samples, t)

/-- The units of a level one after the other, their samples joined in stream order (R163, R164). -/
def decodeUnits : List (List HostAction) → State → Except HostError (List Word × State)
  | [], s => .ok ([], s)
  | unit :: rest, s =>
    match unitSamples unit s with
    | .error e => .error e
    | .ok (samples, t) =>
      match decodeUnits rest t with
      | .error e => .error e
      | .ok (more, u) => .ok (samples ++ more, u)

/-- The bytes a block decode reads (R162, 20_memory.md R60). -/
def blockBytes (i : Instr) : Nat := if i = .dxt1 then 8 else 16

/-- A compressed level's units: its blocks in stream order (R164). -/
def blockUnits (i : Instr) (bytes : List Byte) : List (List HostAction) :=
  (List.range (bytes.length / blockBytes i)).map fun q =>
    blockSequence i ((bytes.drop (q * blockBytes i)).take (blockBytes i))

/-- An uncompressed level's units: its `count` pixels in stream order, `wanted` at a time where they fit (R163). -/
def pixelUnits (pixelBytes wanted count : Nat) (bytes : List Byte) : List (List HostAction) :=
  let load := pixelsPerLoad pixelBytes wanted
  (List.range ((count + load - 1) / load)).map fun k =>
    let n := min load (count - k * load)
    pixelSequence pixelBytes n ((bytes.drop (k * load * pixelBytes)).take (n * pixelBytes))

/-- What the header provider gives the host (R169). `alphaEn` is taken as given (R168, U13); `pixelBytes` is the value that
goes to `CTRL.PIXEL_BYTES`. -/
structure ImageHeader where
  height : Nat
  width : Nat
  mips : Nat
  tag : Tag
  alphaEn : Bool
  pixelBytes : BitVec 3
  maskR : Word
  maskG : Word
  maskB : Word
  maskA : Word
  deriving DecidableEq, Repr

/-- A decoded image: row-major, top row first (R167). -/
structure Image where
  height : Nat
  width : Nat
  pixels : List Word
  deriving DecidableEq, Repr

/-- One level: its units by the tag's command, then for a compressed one the reassembly (R163, R164, R165). -/
def decodeLevel (wanted : Nat) (h : ImageHeader) (level : Level) (s : State) : Except HostError (Image × State) :=
  let image := fun pixels => ({ height := level.height, width := level.width, pixels := pixels } : Image)
  match h.tag, unitCommand h.tag with
  | _, Option.none => .error (.unsupportedCompression h.tag)
  | .none, some _ =>
    match decodeUnits (pixelUnits h.pixelBytes.toNat wanted (level.height * level.width) level.bytes) s with
    | .error e => .error e
    | .ok (samples, t) => .ok (image samples, t)
  | _, some i =>
    match decodeUnits (blockUnits i level.bytes) s with
    | .error e => .error e
    | .ok (samples, t) => .ok (image (reassemble level.width level.height samples), t)

/-- The levels one after the other, "largest first" (R165, R167); the first that fails fails them all. -/
def decodeLevels (wanted : Nat) (h : ImageHeader) : List Level → State → Except HostError (List Image × State)
  | [], s => .ok ([], s)
  | level :: rest, s =>
    match decodeLevel wanted h level s with
    | .error e => .error e
    | .ok (image, t) =>
      match decodeLevels wanted h rest t with
      | .error e => .error e
      | .ok (images, u) => .ok (image :: images, u)

/-- `decode(header, byte_buffer)` (R165) on a block in state `s`, `wanted` pixels of an uncompressed level to a load: the tag is
looked at before any level, the spans before any block, the block is configured once, and the answer is the whole sequence of
images or an error (R167). -/
def decodeImages (wanted : Nat) (h : ImageHeader) (input : List Byte) (s : State) : Except HostError (List Image × State) :=
  match takeLevels h.tag h.pixelBytes.toNat (levelDims h.height h.width h.mips) input with
  | .error e => .error e
  | .ok levels =>
    match perform (configureImage h.pixelBytes h.alphaEn h.maskR h.maskG h.maskB h.maskA) s with
    | .error e => .error e
    | .ok t => decodeLevels wanted h levels t

end Sys2Proof.Machine
end

