-- ==== Sys2Proof/Safety.lean ====
section
/-! DEFINITION. What counts as a safe run, in the terms claims use: the launch premises of 70_reset_and_hazards.md R204,
a run that has gone wrong (R208, log 18), and the consistency of the fault latch (10_state.md R27, R28, 60_exceptions.md R181). -/

namespace Sys2Proof.Machine

/-- `NoFault` (R204): `STATUS.FAULT = 0`. -/
def NoFault (s : State) : Prop := s.fault = false

/-- `Configured(pb, mr, mg, mb, ma, ae)` (R204). -/
def Configured (pb : BitVec 3) (mr mg mb ma : Word) (ae : Bool) (s : State) : Prop :=
  s.pixelBytes = pb ∧ s.maskR = mr ∧ s.maskG = mg ∧ s.maskB = mb ∧ s.maskA = ma ∧ s.alphaEn = ae

/-- `Loaded(bytes)` (R204): `IBUF[0..n-1]` hold the given bytes. -/
def Loaded (bytes : List Byte) (s : State) : Prop := ∀ k (h : k < bytes.length), k < 16 ∧ ibufByte s k = bytes[k]

/-- The run has gone wrong: a fault is latched, which is R208's sense of the words, or an access was answered
`HostAccessError`. DESIGN CHOICE (log 18): R208 leaves open whether a run that got a `HostAccessError` and went on (log 6) has
gone wrong; the model counts it, since R180 lists the two as the block's kinds of failure. -/
def WentWrong (s : State) : Prop := s.fault = true ∨ Answer.accessError ∈ s.answers

/-- The causes a command word can fault for (R181): none for a word that never faults. -/
def possibleFaults (w : Word) : List FaultCode :=
  match decode w with
  | .illegal _ => [.illegalCommand]
  | .command .nop => []
  | .command (.pix _ _) => [.unsupportedPixelBytes, .ibufRange]
  | .command (.lutc src _) => if pastIbuf src 4 then [.ibufRange] else []
  | .command (.luta src) => if pastIbuf src 2 then [.ibufRange] else []
  | .command .dxt1 => []
  | .command .dxt2 => []
  | .command .dxt3 => []
  | .command .dxt4 => []
  | .command .dxt5 => []
  | .command .dx10 => [.unsupportedCompression]
  | .command .reservedTag0 => [.unsupportedCompression]
  | .command .reservedTag7 => [.unsupportedCompression]
  | .command (.reservedTag8To15 _) => [.unsupportedCompression]

/-- The latch is consistent: with no fault `FCODE` and `FCMD` are 0 (R27, R28); with a fault `FCMD` is a word that can fault
and `FCODE` the code of one of its causes (R28, R181). -/
def LatchConsistent (s : State) : Prop :=
  (s.fault = false → s.fcode = 0#4 ∧ s.fcmd = 0#32) ∧
    (s.fault = true → ∃ c, c ∈ possibleFaults s.fcmd ∧ s.fcode = faultBits c)

end Sys2Proof.Machine
end

