-- ==== Sys2Proof/Certificates/Slice0/Obligations.lean ====
section
/-! DEFINITION. The statements for the provers, in the order of OBLIGATIONS.json. Every statement holds for both values of
`P_S2LE` and for every contents of the buffers: none rests on a value the model chose for reset (logs 1 to 3). -/

open Sys2Proof Sys2Proof.Machine

/-! ### Encoding (30_encoding.md) -/

/-- Decoding the word of a well-formed command gives the command back, for every command and every operand (R73, R80). -/
def Obligations.DecodeOfEncode : Prop :=
  ∀ i : Instr, i.wellFormed = true → decode (encode i) = .command i

/-- Every word that decodes is the word of the command it decodes to: no command has two words, no bit is ignored. -/
def Obligations.EncodeOfDecode : Prop :=
  ∀ (w : Word) (i : Instr), decode w = .command i → i.wellFormed = true ∧ encode i = w

/-- The decoder and spec/opcode_table.json agree on all 2^32 words: a decoded word belongs to its command's row, and a
word of a row decodes to a command of that row. -/
def Obligations.DecoderAgreesWithOpcodeTable : Prop :=
  ∀ w : Word,
    (∀ i, decode w = .command i → (opcodeRow i).holds w = true) ∧
      (∀ i, (opcodeRow i).holds w = true → ∃ j, decode w = .command j ∧ opcodeRow j = opcodeRow i)

/-- R78, R79: which words are illegal, in numbers; that an illegal word raises `IllegalCommand` and writes nothing else; that
`NOP` is the only word that does nothing; and that no word executes as another word's command. -/
def Obligations.IllegalWordsRaiseIllegalCommand : Prop :=
  (∀ w : Word, (∃ why, decode w = .illegal why) ↔
    (4 ≤ w.toNat % 256 ∧ w.toNat % 256 ≤ 15) ∨ 32 ≤ w.toNat % 256 ∨
    ((w.toNat % 256 = 0 ∨ (16 ≤ w.toNat % 256 ∧ w.toNat % 256 ≤ 31)) ∧ w.toNat / 2 ^ 8 ≠ 0) ∨
    (w.toNat % 256 = 1 ∧ w.toNat / 2 ^ 16 ≠ 0) ∨
    (w.toNat % 256 = 2 ∧ (w.toNat / 2 ^ 17 ≠ 0 ∨ w.toNat / 2 ^ 12 % 16 ≠ 0)) ∨
    (w.toNat % 256 = 3 ∧ w.toNat / 2 ^ 12 ≠ 0)) ∧
  (∀ (w : Word) (why : IllegalWord) (s : State), decode w = .illegal why → s.fault = false →
    runCommand w s = .next { s with fault := true, fcode := 1#4, fcmd := w }) ∧
  (∀ w : Word, (∀ s : State, s.fault = false → runCommand w s = .next s) ↔ w = 0#32) ∧
  (∀ (w w' : Word) (i : Instr), decode w = .command i → decode w' = .command i → w = w')

/-- R81: the complete list of legal words, command by command and counted, and what every word does to a block with no fault
latched. -/
def Obligations.LegalWordsCounted : Prop :=
  let executing : List Word :=
    [0x00000000#32] ++
      ((List.range 16).flatMap fun src => (List.range 16).map fun dst =>
        BitVec.ofNat 32 (0x00000001 + src * 0x100 + dst * 0x1000)) ++
      ((List.range 16).flatMap fun src => (List.range 2).map fun pol =>
        BitVec.ofNat 32 (0x00000002 + src * 0x100 + pol * 0x10000)) ++
      ((List.range 16).map fun src => BitVec.ofNat 32 (0x00000003 + src * 0x100)) ++
      [0x00000011#32, 0x00000012#32, 0x00000013#32, 0x00000014#32, 0x00000015#32]
  let tags : List Word := [0x00000010#32] ++ (List.range 10).map fun k => BitVec.ofNat 32 (0x00000016 + k)
  executing.Nodup ∧ executing.length = 310 ∧ tags.Nodup ∧ tags.length = 11 ∧
  (∀ w : Word, decode w = .command .nop ↔ w = 0x00000000#32) ∧
  (∀ (w : Word) (src dst : BitVec 4), decode w = .command (.pix src dst) ↔
    w.toNat = 0x00000001 + src.toNat * 0x100 + dst.toNat * 0x1000) ∧
  (∀ (w : Word) (src : BitVec 4) (pol : Policy), decode w = .command (.lutc src pol) ↔
    w.toNat = 0x00000002 + src.toNat * 0x100 + (if pol = .dxt1 then 1 else 0) * 0x10000) ∧
  (∀ (w : Word) (src : BitVec 4), decode w = .command (.luta src) ↔ w.toNat = 0x00000003 + src.toNat * 0x100) ∧
  (∀ w : Word, (decode w = .command .dxt1 ↔ w = 0x00000011#32) ∧ (decode w = .command .dxt2 ↔ w = 0x00000012#32) ∧
    (decode w = .command .dxt3 ↔ w = 0x00000013#32) ∧ (decode w = .command .dxt4 ↔ w = 0x00000014#32) ∧
    (decode w = .command .dxt5 ↔ w = 0x00000015#32)) ∧
  (∀ w : Word, w ∈ executing ↔ ∃ i, decode w = .command i ∧
    (i = .nop ∨ (∃ src dst, i = .pix src dst) ∨ (∃ src pol, i = .lutc src pol) ∨ (∃ src, i = .luta src) ∨
      i = .dxt1 ∨ i = .dxt2 ∨ i = .dxt3 ∨ i = .dxt4 ∨ i = .dxt5)) ∧
  (∀ w : Word, w ∈ tags ↔ ∀ s : State, s.fault = false →
    runCommand w s = .next { s with fault := true, fcode := 2#4, fcmd := w }) ∧
  (∀ w : Word, (w ∉ executing ∧ w ∉ tags) ↔ ∀ s : State, s.fault = false →
    runCommand w s = .next { s with fault := true, fcode := 1#4, fcmd := w }) ∧
  Nat.card { w : Word // w ∉ executing ∧ w ∉ tags } = 2 ^ 32 - 321

/-- Words written out bit by bit from R73 and R77 decode to the commands they stand for. -/
def Obligations.WrittenOutWordsDecode : Prop :=
  decode 0b00000000000000000000000000000000#32 = .command .nop ∧
  decode 0b00000000000000001111001100000001#32 = .command (.pix 3#4 15#4) ∧
  decode 0b00000000000000010000110000000010#32 = .command (.lutc 12#4 .dxt1) ∧
  decode 0b00000000000000000000111000000011#32 = .command (.luta 14#4) ∧
  decode 0b00000000000000000000000000010001#32 = .command .dxt1 ∧
  decode 0b00000000000000000000000000010011#32 = .command .dxt3 ∧
  decode 0b00000000000000000000000000010101#32 = .command .dxt5 ∧
  decode 0b00000000000000000000000000010110#32 = .command .dx10 ∧
  decode 0b00000000000000000000000000011010#32 = .command (.reservedTag8To15 10#4) ∧
  decode 0b00000000000000000000000100010110#32 = .illegal .strayBits

/-! ### Steps, the gate and the fault latch (30_encoding.md, 60_exceptions.md) -/

/-- A step whose host action writes a word to `CMD`, on a block with no fault latched, runs the command the word decodes to
(R70): first the action is taken off the program and answered. `withFetchWord` places any well-formed command so. -/
def Obligations.StepRunsDecodedCommand : Prop :=
  (∀ (s : State) (w : Word) (rest : List HostAction) (i : Instr),
    s.program = .write 0x0C 32 w :: rest → s.fault = false → decode w = .command i →
    step s = exec i { s with program := rest, answers := .done :: s.answers }) ∧
  (∀ (s : State) (i : Instr), i.wellFormed = true → s.fault = false →
    step (s.withFetchWord 32 (encode i).toNat) = exec i { s with answers := .done :: s.answers })

/-- R71, the command gate, both halves. -/
def Obligations.GateDropsCommandsWhileFaulted : Prop :=
  ∀ (s : State) (w : Word) (rest : List HostAction), s.program = .write 0x0C 32 w :: rest →
    (s.fault = true → step s = .next { s with program := rest, answers := .done :: s.answers }) ∧
    (s.fault = false → ∀ i, decode w = .command i →
      step s = exec i { s with program := rest, answers := .done :: s.answers }) ∧
    (s.fault = false → ∀ why, decode w = .illegal why →
      step s = .next { s with program := rest, answers := .done :: s.answers, fault := true, fcode := 1#4, fcmd := w })

/-- No step stops: from every state the machine has a next state. -/
def Obligations.EveryStepAnswersNext : Prop :=
  ∀ s : State, ∃ t : State, step s = .next t

/-- A step takes exactly one action off the program and answers it, a hard reset alone getting no answer; no action changes
`P_S2LE`. -/
def Obligations.StepConsumesOneAction : Prop :=
  ∀ (s t : State) (a : HostAction) (rest : List HostAction), s.program = a :: rest → step s = .next t →
    t.program = rest ∧ t.s2le = s.s2le ∧ (a = .hardReset → t.answers = s.answers) ∧
      (a ≠ .hardReset → ∃ ans, t.answers = ans :: s.answers)

/-- A run ends when its last host action has completed: as many steps as the program has actions always succeed, leave no
action, one answer for each access, and a state that stays as it is. That it stays is log 5; that the run goes on past an
access answered `HostAccessError`, which R208 leaves to the model, is log 6. -/
def Obligations.RunEndsWithItsLastAction : Prop :=
  ∀ s : State, ∃ t : State,
    Sys2Proof.core.run s.program.length s = .next t ∧ t.program = [] ∧ t.s2le = s.s2le ∧
      t.answers.length = s.answers.length + (s.program.filter fun a => a ≠ .hardReset).length ∧
      ∀ k : Nat, Sys2Proof.core.run k t = .next t

/-- The invariant of the fault latch: with no fault `FCODE` and `FCMD` are 0; with a fault `FCMD` is a word that can fault
and `FCODE` is the code of one of its causes (so 1 to 4). Every step keeps it. -/
def Obligations.StepKeepsLatchConsistent : Prop :=
  ∀ s t : State, LatchConsistent s → step s = .next t → LatchConsistent t

/-- The latch is consistent in every launch state, and its code is at most 4 wherever it is consistent (R181, U17). -/
def Obligations.LatchConsistentAtLaunch : Prop :=
  (∀ (bufs : Buffers) (p : S2LE) (program : List HostAction), LatchConsistent (State.launch bufs p program)) ∧
    LatchConsistent State.reset ∧ ∀ s : State, LatchConsistent s → s.fcode.toNat ≤ 4

/-- Fault entry: a command that faults writes `FAULT`, `FCODE` (the code of a cause its word can have) and `FCMD`, which takes
the whole command word, and nothing else; one that does not fault leaves the three alone. -/
def Obligations.FaultingCommandWritesOnlyTheLatch : Prop :=
  ∀ (s t : State) (w : Word), s.fault = false → runCommand w s = .next t →
    (t.fault = true → ∃ c ∈ possibleFaults w, t = { s with fault := true, fcode := faultBits c, fcmd := w }) ∧
    (t.fault = false → t.fcode = s.fcode ∧ t.fcmd = s.fcmd)

/-- R185 with the conditions of R182 and R183: which code a word leaves, for every word and every configuration; and with
R184: nothing but the latch is written then. -/
def Obligations.FaultCauseAndPriority : Prop :=
  ∀ (s t : State) (w : Word), s.fault = false → runCommand w s = .next t →
    (t.fault = true → t = { s with fault := true, fcode := t.fcode, fcmd := w }) ∧
    (t.fault = true → t.fcode = 1#4 ∨ t.fcode = 2#4 ∨ t.fcode = 3#4 ∨ t.fcode = 4#4) ∧
    ((t.fault = true ∧ t.fcode = 1#4) ↔ ∃ why, decode w = .illegal why) ∧
    ((t.fault = true ∧ t.fcode = 2#4) ↔ ∃ i, decode w = .command i ∧
      (i = .dx10 ∨ i = .reservedTag0 ∨ i = .reservedTag7 ∨ ∃ tag, i = .reservedTag8To15 tag)) ∧
    ((t.fault = true ∧ t.fcode = 4#4) ↔ ∃ src dst, decode w = .command (.pix src dst) ∧
      (s.pixelBytes.toNat = 0 ∨ 4 < s.pixelBytes.toNat)) ∧
    ((t.fault = true ∧ t.fcode = 3#4) ↔
      (∃ src dst, decode w = .command (.pix src dst) ∧ 1 ≤ s.pixelBytes.toNat ∧ s.pixelBytes.toNat ≤ 4 ∧
        16 < src.toNat + s.pixelBytes.toNat) ∨
      (∃ src pol, decode w = .command (.lutc src pol) ∧ 16 < src.toNat + 4) ∨
      (∃ src, decode w = .command (.luta src) ∧ 16 < src.toNat + 2))

/-- While a fault is latched exactly three actions end it (`clrf`, `srst`, the hard reset), and as long as it stays its
code and word stay and no output changes. -/
def Obligations.OnlyClearingActionsEndAFault : Prop :=
  ∀ (s t : State) (a : HostAction) (rest : List HostAction),
    s.program = a :: rest → s.fault = true → step s = .next t →
    (t.fault = false ↔ (∃ v : Word, a = .write 0x08 32 v ∧ v.getLsbD 0 = true) ∨
      (∃ v : Word, a = .write 0x04 32 v ∧ v.getLsbD 31 = true) ∨ a = .hardReset) ∧
    (t.fault = true →
      t.fcode = s.fcode ∧ t.fcmd = s.fcmd ∧ t.obuf = s.obuf ∧ t.clut = s.clut ∧ t.alut = s.alut)

/-- R180: a run goes wrong in two ways only, a command that faults or an access that is refused; nothing else ever latches a
fault or answers `HostAccessError`. That the refused access counts as gone wrong and that the run goes on after it are logs 18
and 6, the model's choices where R208 leaves them open. -/
def Obligations.RunsGoWrongInTwoWays : Prop :=
  ∀ s t : State, ¬ WentWrong s → step s = .next t → WentWrong t →
    ∃ (a : HostAction) (rest : List HostAction), s.program = a :: rest ∧
      ((∃ w : Word, a = .write 0x0C 32 w ∧ t.fault = true ∧ t.fcmd = w) ∨
        (t.answers = .accessError :: s.answers ∧ t = { s with program := rest, answers := t.answers }))

/-! ### Reset (70_reset_and_hazards.md, 10_state.md) -/

/-- R200: the soft and the hard reset have the same effect, and what the resettable registers hold after it. Nothing is said
of the four buffers, not even that the two resets leave the same contents. -/
def Obligations.ResetsHaveOneEffect : Prop :=
  ∀ (s : State) (v : Word) (rest : List HostAction), v.getLsbD 31 = true →
    ∃ t t' : State,
      step { s with program := .hardReset :: rest } = .next t ∧
      step { s with program := .write 0x04 32 v :: rest } = .next t' ∧
      t' = { t with
        answers := .done :: s.answers, ibuf := t'.ibuf, obuf := t'.obuf, clut := t'.clut, alut := t'.alut } ∧
      t.alphaEn = false ∧ t.pixelBytes = 0#3 ∧ t.fault = false ∧ t.fcode = 0#4 ∧ t.fcmd = 0#32 ∧
      t.maskR = 0#32 ∧ t.maskG = 0#32 ∧ t.maskB = 0#32 ∧ t.maskA = 0#32 ∧
      t.s2le = s.s2le ∧ t.program = rest ∧ t.answers = s.answers ∧
      readAnswer 0x00 32 t = .value 0x44445337#32

/-- R40: what every register reads as in a launch state, whatever the buffers hold; the reset state is one of them. -/
def Obligations.LaunchRegisterValues : Prop :=
  (∀ (bufs : Buffers) (p : S2LE) (program : List HostAction),
    readAnswer 0x00 32 (State.launch bufs p program) = .value 0x44445337#32 ∧
    (∀ off, off ∈ [0x04, 0x08, 0x10, 0x20, 0x24, 0x28, 0x2C] →
      readAnswer off 32 (State.launch bufs p program) = .value 0#32) ∧
    (State.launch bufs p program).buffers = bufs) ∧
  ∃ (bufs : Buffers) (p : S2LE), State.reset = State.launch bufs p []

/-! ### The register window (10_state.md, 20_memory.md) -/

/-- R54: a read changes nothing but that its answer is recorded, and reads in a row answer alike. -/
def Obligations.ReadsHaveNoSideEffect : Prop :=
  ∀ (s : State) (off width : Nat) (rest : List HostAction), s.program = .read off width :: rest →
    ∃ t : State, step s = .next t ∧ t = { s with program := rest, answers := readAnswer off width s :: s.answers } ∧
      ∀ off' width' : Nat, readAnswer off' width' t = readAnswer off' width' s

/-- Exactly which accesses are answered `HostAccessError`, as R53 lists them, and that such an access changes no state of the
block. That it leads to a next state, with the host's program going on, is log 6, the model's choice. -/
def Obligations.RefusedAccesses : Prop :=
  ∀ (s : State) (off width : Nat),
    (∀ rest : List HostAction, s.program = .read off width :: rest → readAnswer off width s = .accessError →
      step s = .next { s with program := rest, answers := .accessError :: s.answers }) ∧
    (readAnswer off width s = .accessError ↔
      ¬ (width = 32 ∧ off % 4 = 0 ∧
        (off ≤ 0x08 ∨ off = 0x10 ∨ (0x20 ≤ off ∧ off ≤ 0x54) ∨ (0x80 ≤ off ∧ off ≤ 0xBC)))) ∧
    (∀ (v : Word) (rest : List HostAction), s.program = .write off width v :: rest →
      ¬ (width = 32 ∧ off % 4 = 0 ∧ ((0x04 ≤ off ∧ off ≤ 0x0C) ∨ (0x20 ≤ off ∧ off ≤ 0x3C))) →
      step s = .next { s with program := rest, answers := .accessError :: s.answers }) ∧
    (∀ (v : Word) (rest : List HostAction), s.program = .write off width v :: rest →
      (width = 32 ∧ off % 4 = 0 ∧ ((0x04 ≤ off ∧ off ≤ 0x0C) ∨ (0x20 ≤ off ∧ off ≤ 0x3C))) →
      ∃ t : State, step s = .next t ∧ t.answers = .done :: s.answers)

/-- R22: `ID` reads as the constant in every state, so no action changes it. -/
def Obligations.IdIsConstant : Prop :=
  ∀ s : State, readAnswer 0x00 32 s = .value 0x44445337#32

/-- R23: a write to `CTRL` with bit 31 clear stores the two fields and nothing else, one with bit 31 set is the soft reset,
which stores neither; a read returns the two fields and zeros, in the place of `SRST` too; a launch state reads 0. -/
def Obligations.CtrlWriteAndRead : Prop :=
  (∀ (s : State) (v : Word) (rest : List HostAction), s.program = .write 0x04 32 v :: rest → v.getLsbD 31 = false →
    ∃ pb : BitVec 3, pb.toNat = v.toNat / 2 ^ 4 % 8 ∧
      step s = .next
        { s with program := rest, answers := .done :: s.answers, alphaEn := v.getLsbD 0, pixelBytes := pb }) ∧
  (∀ (s : State) (v : Word) (rest : List HostAction), s.program = .write 0x04 32 v :: rest → v.getLsbD 31 = true →
    ∃ t : State, step s = .next t ∧ t.alphaEn = false ∧ t.pixelBytes = 0#3 ∧ t.fault = false) ∧
  (∀ s : State, ∃ x : Word, readAnswer 0x04 32 s = .value x ∧ x.toNat = s.pixelBytes.toNat * 16 + s.alphaEn.toNat) ∧
  ∀ (bufs : Buffers) (p : S2LE) (program : List HostAction),
    readAnswer 0x04 32 (State.launch bufs p program) = .value 0x00000000#32

/-- R27: what `STATUS` reads as, what a write to it does, and that of all actions only a faulting command sets `FAULT`. -/
def Obligations.StatusReadAndWriteOneToClear : Prop :=
  (∀ s : State, ∃ x : Word, readAnswer 0x08 32 s = .value x ∧ x.toNat = s.fcode.toNat * 16 + s.fault.toNat) ∧
  (∀ (s : State) (v : Word) (rest : List HostAction), s.program = .write 0x08 32 v :: rest →
    (v.getLsbD 0 = true → step s = .next
      { s with program := rest, answers := .done :: s.answers, fault := false, fcode := 0#4, fcmd := 0#32 }) ∧
    (v.getLsbD 0 = false → step s = .next { s with program := rest, answers := .done :: s.answers })) ∧
  (∀ (s t : State) (a : HostAction) (rest : List HostAction), s.program = a :: rest → s.fault = false →
    step s = .next t → t.fault = true → ∃ w : Word, a = .write 0x0C 32 w ∧ t.fcmd = w)

/-- A write to a mask register stores all 32 bits, whatever is latched in `STATUS`, changes nothing else, and is read back. -/
def Obligations.MaskRegistersStoreWholeWords : Prop :=
  ∀ (s : State) (v : Word) (rest : List HostAction),
    (s.program = .write 0x20 32 v :: rest →
      step s = .next { s with program := rest, answers := .done :: s.answers, maskR := v }) ∧
    (s.program = .write 0x24 32 v :: rest →
      step s = .next { s with program := rest, answers := .done :: s.answers, maskG := v }) ∧
    (s.program = .write 0x28 32 v :: rest →
      step s = .next { s with program := rest, answers := .done :: s.answers, maskB := v }) ∧
    (s.program = .write 0x2C 32 v :: rest →
      step s = .next { s with program := rest, answers := .done :: s.answers, maskA := v }) ∧
    readAnswer 0x20 32 s = .value s.maskR ∧ readAnswer 0x24 32 s = .value s.maskG ∧
    readAnswer 0x28 32 s = .value s.maskB ∧ readAnswer 0x2C 32 s = .value s.maskA

/-- R56: the byte lanes of the four `IBUF` words, written and read. -/
def Obligations.IbufWordsAreLittleEndian : Prop :=
  (∀ (s : State) (j : Nat) (v : Word) (rest : List HostAction), j < 4 → s.program = .write (0x30 + 4 * j) 32 v :: rest →
    ∃ t : State, step s = .next t ∧
      t = { s with program := rest, answers := .done :: s.answers, ibuf := t.ibuf } ∧
      t.ibuf[4 * j]? = some (v.extractLsb' 0 8) ∧ t.ibuf[4 * j + 1]? = some (v.extractLsb' 8 8) ∧
      t.ibuf[4 * j + 2]? = some (v.extractLsb' 16 8) ∧ t.ibuf[4 * j + 3]? = some (v.extractLsb' 24 8) ∧
      (∀ k : Nat, k / 4 ≠ j → t.ibuf[k]? = s.ibuf[k]?) ∧ readAnswer (0x30 + 4 * j) 32 t = .value v) ∧
  (∀ (s : State) (j : Nat), j < 4 → ∃ x : Word, readAnswer (0x30 + 4 * j) 32 s = .value x ∧
    x.toNat = (ibufByte s (4 * j)).toNat + (ibufByte s (4 * j + 1)).toNat * 2 ^ 8 +
      (ibufByte s (4 * j + 2)).toNat * 2 ^ 16 + (ibufByte s (4 * j + 3)).toNat * 2 ^ 24)

/-- R57: what the words of `OBUF`, `CLUT` and `ALUT` read as, and where their channels and entries lie. -/
def Obligations.OutputRegistersRead : Prop :=
  ∀ s : State,
    (∀ (n : Nat) (h : n < 16), readAnswer (0x80 + 4 * n) 32 s = .value s.obuf[n]) ∧
    (∀ (i : Nat) (h : i < 4), readAnswer (0x40 + 4 * i) 32 s = .value s.clut[i]) ∧
    (∀ (i : Nat) (h : i < 8), ∃ x : Word, readAnswer (0x50 + i / 4 * 4) 32 s = .value x ∧
      x.extractLsb' (8 * (i % 4)) 8 = s.alut[i]) ∧
    ∀ r g b a : Byte, (rgba r g b a).toNat = r.toNat + g.toNat * 2 ^ 8 + b.toNat * 2 ^ 16 + a.toNat * 2 ^ 24

/-- Who writes the four buffers: of all actions only writes to `IBUFj` and resets change `IBUF`, and only the commands listed
for each, run with no fault latched, and resets change `OBUF`, `CLUT` and `ALUT`. -/
def Obligations.BuffersChangeOnlyByTheirWriters : Prop :=
  ∀ (s t : State) (a : HostAction) (rest : List HostAction), s.program = a :: rest → step s = .next t →
    a ≠ .hardReset → (∀ v : Word, a = .write 0x04 32 v → v.getLsbD 31 = false) →
    (t.ibuf ≠ s.ibuf → ∃ (off : Nat) (v : Word), a = .write off 32 v ∧ 0x30 ≤ off ∧ off ≤ 0x3C) ∧
    (t.obuf ≠ s.obuf → ∃ (w : Word) (i : Instr), a = .write 0x0C 32 w ∧ s.fault = false ∧ decode w = .command i ∧
      ((∃ src dst, i = .pix src dst) ∨ i = .dxt1 ∨ i = .dxt2 ∨ i = .dxt3 ∨ i = .dxt4 ∨ i = .dxt5)) ∧
    (t.clut ≠ s.clut → ∃ (w : Word) (i : Instr), a = .write 0x0C 32 w ∧ s.fault = false ∧ decode w = .command i ∧
      ((∃ src pol, i = .lutc src pol) ∨ i = .dxt1 ∨ i = .dxt2 ∨ i = .dxt3 ∨ i = .dxt4 ∨ i = .dxt5)) ∧
    (t.alut ≠ s.alut → ∃ (w : Word) (i : Instr), a = .write 0x0C 32 w ∧ s.fault = false ∧ decode w = .command i ∧
      ((∃ src, i = .luta src) ∨ i = .dxt4 ∨ i = .dxt5))

/-! ### Every command: frame, purity -/

/-- The frame of all thirteen commands (R39): the registers the host configures, `IBUF` and the model's own fields stay; each
output stays but for the commands that write it; `PIX` leaves the other fifteen samples; every register the command does not
write reads as before. -/
def Obligations.CommandFrame : Prop :=
  ∀ (i : Instr) (s t : State), exec i s = .next t →
    (t.alphaEn = s.alphaEn ∧ t.pixelBytes = s.pixelBytes ∧ t.maskR = s.maskR ∧ t.maskG = s.maskG ∧
      t.maskB = s.maskB ∧ t.maskA = s.maskA ∧ t.ibuf = s.ibuf ∧ t.s2le = s.s2le ∧ t.resetCount = s.resetCount ∧
      t.program = s.program ∧ t.answers = s.answers) ∧
    (i = .nop → t = s) ∧
    ((∃ src, i = .luta src) ∨ (∃ src pol, i = .lutc src pol) ∨
      i = .dx10 ∨ i = .reservedTag0 ∨ i = .reservedTag7 ∨ (∃ tag, i = .reservedTag8To15 tag) → t.obuf = s.obuf) ∧
    (∀ src dst, i = .pix src dst → t.clut = s.clut ∧ t.alut = s.alut ∧
      ∀ n : Nat, n ≠ dst.toNat → t.obuf[n]? = s.obuf[n]?) ∧
    ((∃ src, i = .luta src) ∨ i = .dx10 ∨ i = .reservedTag0 ∨ i = .reservedTag7 ∨
      (∃ tag, i = .reservedTag8To15 tag) → t.clut = s.clut) ∧
    ((∃ src pol, i = .lutc src pol) ∨ i = .dxt1 ∨ i = .dxt2 ∨ i = .dxt3 ∨ i = .dx10 ∨ i = .reservedTag0 ∨
      i = .reservedTag7 ∨ (∃ tag, i = .reservedTag8To15 tag) → t.alut = s.alut) ∧
    (i = .dxt1 ∨ i = .dxt2 ∨ i = .dxt3 ∨ i = .dxt4 ∨ i = .dxt5 →
      t.fault = s.fault ∧ t.fcode = s.fcode ∧ t.fcmd = s.fcmd) ∧
    (∀ off width : Nat, off ≤ 0x04 ∨ (0x20 ≤ off ∧ off ≤ 0x3C) → readAnswer off width t = readAnswer off width s)

/-- R62: what a command writes is a function of `CTRL`, the masks and `IBUF` alone (and of `P_S2LE`): two states that agree on
these, whatever else they hold, get the same latch, table entries and samples from it or keep their own. -/
def Obligations.CommandsArePureFunctions : Prop :=
  ∀ (i : Instr) (s s' : State),
    s.alphaEn = s'.alphaEn → s.pixelBytes = s'.pixelBytes → s.maskR = s'.maskR → s.maskG = s'.maskG →
    s.maskB = s'.maskB → s.maskA = s'.maskA → s.ibuf = s'.ibuf → s.s2le = s'.s2le →
    ∃ t t' : State, exec i s = .next t ∧ exec i s' = .next t' ∧
      ((t.fault = t'.fault ∧ t.fcode = t'.fcode ∧ t.fcmd = t'.fcmd) ∨
        (t.fault = s.fault ∧ t.fcode = s.fcode ∧ t.fcmd = s.fcmd ∧
          t'.fault = s'.fault ∧ t'.fcode = s'.fcode ∧ t'.fcmd = s'.fcmd)) ∧
      (t.clut = t'.clut ∨ (t.clut = s.clut ∧ t'.clut = s'.clut)) ∧
      (t.alut = t'.alut ∨ (t.alut = s.alut ∧ t'.alut = s'.alut)) ∧
      ∀ n : Nat, t.obuf[n]? = t'.obuf[n]? ∨ (t.obuf[n]? = s.obuf[n]? ∧ t'.obuf[n]? = s'.obuf[n]?)

/-- R62: "Issuing the same command twice with no host write in between gives the same writes twice", so the second changes
nothing; for every word, the faulting and the dropped ones too. -/
def Obligations.RepeatedCommandChangesNothing : Prop :=
  ∀ (w : Word) (s t : State), runCommand w s = .next t → runCommand w t = .next t

/-! ### NOP, DX10 and the reserved tags (45_nop_unsupported.md) -/

/-- R150: `NOP` has a next state from every state, and it is the same state; its one word is the zero word, which does nothing
while a fault is latched too; any other word with `OPC = 0x00` is illegal. -/
def Obligations.NopDoesNothing : Prop :=
  (∀ s : State, exec .nop s = .next s ∧ runCommand 0x00000000#32 s = .next s) ∧
  decode 0x00000000#32 = .command .nop ∧
  ∀ w : Word, w.toNat % 256 = 0 → w ≠ 0#32 → ∃ why, decode w = .illegal why

/-- R151, R152: `DX10` and the reserved tags take the fault entry, code 2, each with its own word in `FCMD`, from every state
(that entry is their own effect), after which `STATUS` reads 0x21; their words; and that stray bits make them illegal. -/
def Obligations.UnsupportedTagsFault : Prop :=
  decode 0x00000016#32 = .command .dx10 ∧ decode 0x00000010#32 = .command .reservedTag0 ∧
  decode 0x00000017#32 = .command .reservedTag7 ∧
  (∀ tag : BitVec 4, 8 ≤ tag.toNat → decode (BitVec.ofNat 32 (0x10 + tag.toNat)) = .command (.reservedTag8To15 tag)) ∧
  (∀ w : Word, w.toNat % 256 = 0x10 ∨ (0x16 ≤ w.toNat % 256 ∧ w.toNat % 256 ≤ 0x1F) → w.toNat / 2 ^ 8 ≠ 0 →
    ∃ why, decode w = .illegal why) ∧
  (∀ (s t : State) (i : Instr), exec i s = .next t →
    i = .dx10 ∨ i = .reservedTag0 ∨ i = .reservedTag7 ∨ (∃ tag, i = .reservedTag8To15 tag) →
    readAnswer 0x08 32 t = .value 0x00000021#32 ∧ readAnswer 0x10 32 t = .value (encode i)) ∧
  ∀ s : State,
    exec .dx10 s = .next { s with fault := true, fcode := 2#4, fcmd := 0x00000016#32 } ∧
    exec .reservedTag0 s = .next { s with fault := true, fcode := 2#4, fcmd := 0x00000010#32 } ∧
    exec .reservedTag7 s = .next { s with fault := true, fcode := 2#4, fcmd := 0x00000017#32 } ∧
    ∀ tag : BitVec 4, 8 ≤ tag.toNat →
      exec (.reservedTag8To15 tag) s =
        .next { s with fault := true, fcode := 2#4, fcmd := BitVec.ofNat 32 (0x10 + tag.toNat) }

/-! ### PIX (40_pix.md) -/

/-- `ctz32` and `popcount32` are the position of the lowest set bit and the number of set bits (R14). -/
def Obligations.TrailingZerosAndPopulation : Prop :=
  ∀ m : Word,
    (m ≠ 0#32 → ctz32 m ≤ 31 ∧ m.getLsbD (ctz32 m) = true ∧ ∀ k : Nat, k < ctz32 m → m.getLsbD k = false) ∧
    popcount32 m ≤ 32 ∧ popcount32 m = (Finset.univ.filter fun k : Fin 32 => m.getLsbD k.val = true).card

/-- R90: the lane's value, for every word and every mask, zero mask and masks with holes too. -/
def Obligations.LaneValue : Prop :=
  ∀ word m : Word,
    (m = 0#32 → lane word m = 0#8) ∧
    (m ≠ 0#32 →
      (lane word m).toNat = (word &&& m).toNat / 2 ^ ctz32 m * 255 / (2 ^ popcount32 m - 1) % 256)

/-- For a mask of `n` ones from bit `k` up the lane rescales the field it covers, exactly and without truncation; eight ones
return the field unchanged (R95, R97). -/
def Obligations.ContiguousMaskRescalesItsField : Prop :=
  ∀ (k n : Nat) (word : Word), 1 ≤ n → k + n ≤ 32 →
    (lane word (BitVec.ofNat 32 ((2 ^ n - 1) * 2 ^ k))).toNat = word.toNat / 2 ^ k % 2 ^ n * 255 / (2 ^ n - 1) ∧
    (n = 8 → lane word (BitVec.ofNat 32 ((2 ^ n - 1) * 2 ^ k)) = word.extractLsb' k 8)

/-- A mask that lies above the pixel's own bytes gives a zero channel (R92, R96). -/
def Obligations.MaskAbovePixelGivesZero : Prop :=
  ∀ (s : State) (src : BitVec 4) (m : Word), 1 ≤ s.pixelBytes.toNat → s.pixelBytes.toNat ≤ 4 →
    m.toNat % 2 ^ (8 * s.pixelBytes.toNat) = 0 → lane (pixelWord s src) m = 0#8

/-- `PIX` with a legal byte count and its bytes inside `IBUF` writes exactly one sample: the little-endian word of its bytes
(R92) through the four lanes, red from `MASK_R` and so on (R91, R93); everything else, and every other register's reading,
stays. -/
def Obligations.PixWritesOneSample : Prop :=
  ∀ (src dst : BitVec 4) (s : State), 1 ≤ s.pixelBytes.toNat → s.pixelBytes.toNat ≤ 4 →
    src.toNat + s.pixelBytes.toNat ≤ 16 →
    ∃ (t : State) (word v : Word), exec (.pix src dst) s = .next t ∧
      word.toNat = ∑ k ∈ Finset.range s.pixelBytes.toNat, (ibufByte s (src.toNat + k)).toNat * 256 ^ k ∧
      sampleR v = lane word s.maskR ∧ sampleG v = lane word s.maskG ∧ sampleB v = lane word s.maskB ∧
      sampleA v = lane word s.maskA ∧
      t = { s with obuf := t.obuf } ∧ t.obuf[dst.toNat]? = some v ∧
      (∀ n : Nat, n ≠ dst.toNat → t.obuf[n]? = s.obuf[n]?) ∧
      ∀ off width : Nat, off ≠ 0x80 + 4 * dst.toNat → readAnswer off width t = readAnswer off width s

/-- Where `PIX` faults: an unsupported byte count first, else a range past `IBUF[15]`; only the latch is written (R182, R183,
R185). -/
def Obligations.PixFaults : Prop :=
  ∀ (src dst : BitVec 4) (s : State),
    (s.pixelBytes.toNat = 0 ∨ 4 < s.pixelBytes.toNat → exec (.pix src dst) s = .next
      { s with fault := true, fcode := 4#4, fcmd := BitVec.ofNat 32 (0x01 + src.toNat * 0x100 + dst.toNat * 0x1000) }) ∧
    (1 ≤ s.pixelBytes.toNat → s.pixelBytes.toNat ≤ 4 → 16 < src.toNat + s.pixelBytes.toNat →
      exec (.pix src dst) s = .next
        { s with fault := true, fcode := 3#4, fcmd := BitVec.ofNat 32 (0x01 + src.toNat * 0x100 + dst.toNat * 0x1000) })

/-- The launch premises of R204 determine a `PIX`: with `NoFault`, `Configured` and `Loaded` the step that runs `pix 0, dst`
writes the sample the loaded bytes and the configured masks give, whatever `OBUF`, `CLUT` and `ALUT` held. -/
def Obligations.LaunchPremisesDetermineThePixel : Prop :=
  ∀ (s : State) (pb : BitVec 3) (mr mg mb ma : Word) (ae : Bool) (bytes : List Byte) (dst : BitVec 4) (word : Word),
    NoFault s → Configured pb mr mg mb ma ae s → Loaded bytes s →
    1 ≤ pb.toNat → pb.toNat ≤ 4 → bytes.length = pb.toNat →
    word.toNat = bytes.foldr (fun b acc => b.toNat + 256 * acc) 0 →
    ∃ t : State, step (s.withFetchWord 32 (0x01 + dst.toNat * 0x1000)) = .next t ∧
      t.obuf[dst.toNat]? = some (rgba (lane word mr) (lane word mg) (lane word mb) (lane word ma)) ∧
      t.fault = false ∧ t.answers = .done :: s.answers

/-- R93: each output byte of `PIX` depends on its own mask only: two blocks that agree on the pixel and on one mask get the
same byte from that lane, whatever the other three masks are. -/
def Obligations.LanesAreIndependent : Prop :=
  ∀ (src dst : BitVec 4) (s s' t t' : State) (v v' : Word),
    1 ≤ s.pixelBytes.toNat → s.pixelBytes.toNat ≤ 4 → src.toNat + s.pixelBytes.toNat ≤ 16 →
    s.pixelBytes = s'.pixelBytes → s.ibuf = s'.ibuf →
    exec (.pix src dst) s = .next t → exec (.pix src dst) s' = .next t' →
    t.obuf[dst.toNat]? = some v → t'.obuf[dst.toNat]? = some v' →
    (s.maskR = s'.maskR → v.extractLsb' 0 8 = v'.extractLsb' 0 8) ∧
    (s.maskG = s'.maskG → v.extractLsb' 8 8 = v'.extractLsb' 8 8) ∧
    (s.maskB = s'.maskB → v.extractLsb' 16 8 = v'.extractLsb' 16 8) ∧
    (s.maskA = s'.maskA → v.extractLsb' 24 8 = v'.extractLsb' 24 8)

/-! ### The tables, LUTC and LUTA (41_lut.md) -/

/-- R102, R103: every entry of the colour table as a number, for both policies, both flags and both values of `P_S2LE`. -/
def Obligations.ColourTableEntries : Prop :=
  ∀ (p : S2LE) (c0 c1 : BitVec 16) (pol : Policy) (alphaEn : Bool),
    let r0 := c0.toNat / 2 ^ 11 % 32 * 255 / 31
    let g0 := c0.toNat / 2 ^ 5 % 64 * 255 / 63
    let b0 := c0.toNat % 32 * 255 / 31
    let r1 := c1.toNat / 2 ^ 11 % 32 * 255 / 31
    let g1 := c1.toNat / 2 ^ 5 % 64 * 255 / 63
    let b1 := c1.toNat % 32 * 255 / 31
    let pack := fun r g b a : Nat => r + g * 2 ^ 8 + b * 2 ^ 16 + a * 2 ^ 24
    let four := pol = .four ∨ c1.toNat < c0.toNat
    let E := colourLUT p c0 c1 pol alphaEn
    E[0].toNat = pack r0 g0 b0 255 ∧
    E[1].toNat = pack r1 g1 b1 255 ∧
    (four ∨ p = .thirds → E[2].toNat = pack ((2 * r0 + r1) / 3) ((2 * g0 + g1) / 3) ((2 * b0 + b1) / 3) 255) ∧
    (¬ four ∧ p = .average → E[2].toNat = pack ((r0 + r1) / 2) ((g0 + g1) / 2) ((b0 + b1) / 2) 255) ∧
    (four → E[3].toNat = pack ((r0 + 2 * r1) / 3) ((g0 + 2 * g1) / 3) ((b0 + 2 * b1) / 3) 255) ∧
    (¬ four ∧ alphaEn = true → E[3].toNat = 0) ∧
    (¬ four ∧ alphaEn = false → E[3].toNat = pack 0 0 0 255)

/-- R112, its five properties. -/
def Obligations.ColourTableProperties : Prop :=
  ∀ (p : S2LE) (c0 c1 : BitVec 16) (pol : Policy) (alphaEn : Bool),
    let E := colourLUT p c0 c1 pol alphaEn
    let four := pol = .four ∨ c1.toNat < c0.toNat
    (∀ (pol' : Policy) (ae' : Bool), (colourLUT p c0 c1 pol' ae')[0] = E[0] ∧ (colourLUT p c0 c1 pol' ae')[1] = E[1]) ∧
    (pol = .four →
      (colourLUT p c1 c0 pol alphaEn)[0] = E[1] ∧ (colourLUT p c1 c0 pol alphaEn)[1] = E[0] ∧
      (colourLUT p c1 c0 pol alphaEn)[2] = E[3] ∧ (colourLUT p c1 c0 pol alphaEn)[3] = E[2]) ∧
    (c0 = c1 → E[2] = E[0] ∧ (four → E[3] = E[0])) ∧
    (∀ chan : Word → Byte, chan = sampleR ∨ chan = sampleG ∨ chan = sampleB →
      (min (chan E[0]).toNat (chan E[1]).toNat ≤ (chan E[2]).toNat ∧
        (chan E[2]).toNat ≤ max (chan E[0]).toNat (chan E[1]).toNat) ∧
      (four → min (chan E[0]).toNat (chan E[1]).toNat ≤ (chan E[3]).toNat ∧
        (chan E[3]).toNat ≤ max (chan E[0]).toNat (chan E[1]).toNat)) ∧
    (∀ ae' : Bool, (colourLUT p c0 c1 pol ae')[2] = E[2] ∧
      (colourLUT p c0 c1 pol ae')[3].extractLsb' 0 24 = E[3].extractLsb' 0 24 ∧
      ((colourLUT p c0 c1 pol ae')[3] ≠ E[3] → pol = .dxt1 ∧ c0.toNat ≤ c1.toNat))

/-- `LUTC` with its four bytes inside `IBUF` writes the colour table of its two little-endian endpoints and nothing else; with
`SRC` above 12 it raises `IbufRange` (R101, R110). -/
def Obligations.LutcWritesColourTable : Prop :=
  ∀ (src : BitVec 4) (pol : Policy) (s : State),
    (src.toNat ≤ 12 → ∃ (t : State) (c0 c1 : BitVec 16), exec (.lutc src pol) s = .next t ∧
      c0.toNat = (ibufByte s src.toNat).toNat + (ibufByte s (src.toNat + 1)).toNat * 2 ^ 8 ∧
      c1.toNat = (ibufByte s (src.toNat + 2)).toNat + (ibufByte s (src.toNat + 3)).toNat * 2 ^ 8 ∧
      t = { s with clut := colourLUT s.s2le c0 c1 pol s.alphaEn } ∧
      ∀ off width : Nat, off < 0x40 ∨ 0x4C < off → readAnswer off width t = readAnswer off width s) ∧
    (12 < src.toNat → ∃ w : Word, exec (.lutc src pol) s = .next { s with fault := true, fcode := 3#4, fcmd := w } ∧
      (pol = .four → w.toNat = 0x02 + src.toNat * 0x100) ∧ (pol = .dxt1 → w.toNat = 0x02 + src.toNat * 0x100 + 0x10000))

/-- R107: every entry of the alpha table as a number, on both sides of the comparison. -/
def Obligations.AlphaTableEntries : Prop :=
  ∀ a0 a1 : Byte,
    (alphaLUT a0 a1)[0] = a0 ∧ (alphaLUT a0 a1)[1] = a1 ∧
    (a1.toNat < a0.toNat → ∀ k : Nat, 1 ≤ k → k ≤ 6 →
      ((alphaLUT a0 a1)[k + 1]?).map BitVec.toNat = some (((7 - k) * a0.toNat + k * a1.toNat) / 7)) ∧
    (a0.toNat ≤ a1.toNat → (∀ k : Nat, 1 ≤ k → k ≤ 4 →
      ((alphaLUT a0 a1)[k + 1]?).map BitVec.toNat = some (((5 - k) * a0.toNat + k * a1.toNat) / 5)) ∧
      (alphaLUT a0 a1)[6] = 0#8 ∧ (alphaLUT a0 a1)[7] = 255#8)

/-- R115: the order of the alpha table's entries. -/
def Obligations.AlphaTableOrder : Prop :=
  ∀ a0 a1 : Byte, let A := alphaLUT a0 a1
    (a1.toNat < a0.toNat → A[0].toNat ≥ A[2].toNat ∧ A[2].toNat ≥ A[3].toNat ∧ A[3].toNat ≥ A[4].toNat ∧
      A[4].toNat ≥ A[5].toNat ∧ A[5].toNat ≥ A[6].toNat ∧ A[6].toNat ≥ A[7].toNat ∧ A[7].toNat ≥ A[1].toNat) ∧
    (a0.toNat ≤ a1.toNat → A[0].toNat ≤ A[2].toNat ∧ A[2].toNat ≤ A[3].toNat ∧ A[3].toNat ≤ A[4].toNat ∧
      A[4].toNat ≤ A[5].toNat ∧ A[5].toNat ≤ A[1].toNat ∧ A[6] = 0#8 ∧ A[7] = 255#8) ∧
    (∀ n k : Nat, 0 < n → k ≤ n → ((n - k) * a0.toNat + k * a1.toNat) / n < 256)

/-- `LUTA` with its two bytes inside `IBUF` writes the alpha table and nothing else; with `SRC = 15` it raises `IbufRange`
(R113). -/
def Obligations.LutaWritesAlphaTable : Prop :=
  ∀ (src : BitVec 4) (s : State),
    (src.toNat ≤ 14 → ∃ t : State, exec (.luta src) s = .next t ∧
      t = { s with alut := alphaLUT (ibufByte s src.toNat) (ibufByte s (src.toNat + 1)) } ∧
      ∀ off width : Nat, off < 0x50 ∨ 0x54 < off → readAnswer off width t = readAnswer off width s) ∧
    (src = 15#4 → exec (.luta src) s = .next { s with fault := true, fcode := 3#4, fcmd := 0x00000F03#32 })

/-- The generators run alone write the tables the block decodes write (R110, R113). -/
def Obligations.GeneratorsAloneMatchBlockDecodes : Prop :=
  ∀ s : State, ∃ t1 t8 ta u1 u2 u3 u4 u5 : State,
    exec (.lutc 0#4 .dxt1) s = .next t1 ∧ exec (.lutc 8#4 .four) s = .next t8 ∧ exec (.luta 0#4) s = .next ta ∧
    exec .dxt1 s = .next u1 ∧ exec .dxt2 s = .next u2 ∧ exec .dxt3 s = .next u3 ∧ exec .dxt4 s = .next u4 ∧
    exec .dxt5 s = .next u5 ∧ t1.clut = u1.clut ∧ t8.clut = u2.clut ∧ t8.clut = u3.clut ∧ t8.clut = u4.clut ∧
    t8.clut = u5.clut ∧ ta.alut = u4.alut ∧ ta.alut = u5.alut

/-! ### Block decodes (42_dxt1.md, 43_dxt23.md, 44_dxt45.md) -/

/-- `DXT1` decodes every contents of `IBUF[0..7]`: the colour table of its endpoints, and sample `4*e + col` the entry picked
by bits `2*col+1 : 2*col` of byte `4 + (3-e)`; nothing else changes (R120, R121, R108). -/
def Obligations.Dxt1DecodesBlock : Prop :=
  ∀ s : State, ∃ (t : State) (c0 c1 : BitVec 16), exec .dxt1 s = .next t ∧
    c0.toNat = (ibufByte s 0).toNat + (ibufByte s 1).toNat * 2 ^ 8 ∧
    c1.toNat = (ibufByte s 2).toNat + (ibufByte s 3).toNat * 2 ^ 8 ∧
    t = { s with clut := colourLUT s.s2le c0 c1 .dxt1 s.alphaEn, obuf := t.obuf } ∧
    ∀ e col : Nat, e < 4 → col < 4 →
      t.obuf[4 * e + col]? = t.clut[(ibufByte s (4 + (3 - e))).toNat / 2 ^ (2 * col) % 4]?

/-- R122: the alpha of a DXT1 sample, and that the flag changes nothing but the samples of selector 3 when `c0 <= c1`: `t'` is
the same block decoded with the other setting. -/
def Obligations.Dxt1AlphaRule : Prop :=
  ∀ (s t t' : State), exec .dxt1 s = .next t → exec .dxt1 { s with alphaEn := !s.alphaEn } = .next t' →
    (∀ (e col : Nat) (v : Word), e < 4 → col < 4 → t.obuf[4 * e + col]? = some v →
      let transparent := (ibufByte s (4 + (3 - e))).toNat / 2 ^ (2 * col) % 4 = 3 ∧
        (ibufByte s 0).toNat + (ibufByte s 1).toNat * 2 ^ 8 ≤ (ibufByte s 2).toNat + (ibufByte s 3).toNat * 2 ^ 8
      (transparent ∧ s.alphaEn = true → v = 0x00000000#32) ∧
      (transparent ∧ s.alphaEn = false → v = 0xFF000000#32) ∧
      (¬ (transparent ∧ s.alphaEn = true) → sampleA v = 255#8) ∧
      (¬ transparent → t'.obuf[4 * e + col]? = some v)) ∧
    ((ibufByte s 2).toNat + (ibufByte s 3).toNat * 2 ^ 8 < (ibufByte s 0).toNat + (ibufByte s 1).toNat * 2 ^ 8 →
      t'.clut = t.clut ∧ t'.obuf = t.obuf)

/-- `DXT1` reads `IBUF[0..7]` only: bytes 8 to 15 cannot affect its result (R60, R120). -/
def Obligations.Dxt1IgnoresUpperHalf : Prop :=
  ∀ s s' t t' : State, (∀ k : Nat, k < 8 → ibufByte s k = ibufByte s' k) → s.alphaEn = s'.alphaEn →
    s.s2le = s'.s2le → exec .dxt1 s = .next t → exec .dxt1 s' = .next t' → t.clut = t'.clut ∧ t.obuf = t'.obuf

/-- `DXT2` and `DXT3` decode every contents of `IBUF`: the four-colour table, and each sample the entry its selector picks
with the alpha replaced by `17 *` its nibble; nothing else changes (R130 to R134, R108). -/
def Obligations.Dxt23DecodesBlock : Prop :=
  ∀ (i : Instr) (s : State), i = .dxt2 ∨ i = .dxt3 → ∃ (t : State) (c0 c1 : BitVec 16), exec i s = .next t ∧
    c0.toNat = (ibufByte s 8).toNat + (ibufByte s 9).toNat * 2 ^ 8 ∧
    c1.toNat = (ibufByte s 10).toNat + (ibufByte s 11).toNat * 2 ^ 8 ∧
    t = { s with clut := colourLUT s.s2le c0 c1 .four false, obuf := t.obuf } ∧
    ∀ e col : Nat, e < 4 → col < 4 → ∃ v c : Word, t.obuf[4 * e + col]? = some v ∧
      t.clut[(ibufByte s (12 + (3 - e))).toNat / 2 ^ (2 * col) % 4]? = some c ∧
      sampleR v = sampleR c ∧ sampleG v = sampleG c ∧ sampleB v = sampleB c ∧
      (sampleA v).toNat = 17 * ((ibufByte s (2 * (3 - e) + col / 2)).toNat / 2 ^ (4 * (col % 2)) % 16)

/-- `DXT4` and `DXT5` decode every contents of `IBUF`: the alpha table, the four-colour table, and each sample the entry its
selector picks with the alpha its 3-bit selector picks from the 48-bit field; nothing else changes (R140 to R144, R108). -/
def Obligations.Dxt45DecodesBlock : Prop :=
  ∀ (i : Instr) (s : State), i = .dxt4 ∨ i = .dxt5 → ∃ (t : State) (c0 c1 : BitVec 16), exec i s = .next t ∧
    c0.toNat = (ibufByte s 8).toNat + (ibufByte s 9).toNat * 2 ^ 8 ∧
    c1.toNat = (ibufByte s 10).toNat + (ibufByte s 11).toNat * 2 ^ 8 ∧
    t = { s with
      clut := colourLUT s.s2le c0 c1 .four false, alut := alphaLUT (ibufByte s 0) (ibufByte s 1), obuf := t.obuf } ∧
    ∀ e col : Nat, e < 4 → col < 4 → ∃ v c : Word, t.obuf[4 * e + col]? = some v ∧
      t.clut[(ibufByte s (12 + (3 - e))).toNat / 2 ^ (2 * col) % 4]? = some c ∧
      sampleR v = sampleR c ∧ sampleG v = sampleG c ∧ sampleB v = sampleB c ∧
      t.alut[(∑ b ∈ Finset.range 6, (ibufByte s (2 + b)).toNat * 256 ^ b) / 2 ^ (3 * (4 * (3 - e) + col)) % 8]? =
        some (sampleA v)

/-! ### The host's half (46_downstream_contract.md): no state of the block -/

/-- R164: the reassembler's stream procedure (bands, rows from 3 down to 0, cropped columns, truncation) and the closed form
give the same image, of `width * height` pixels, for every size and every stream of whole blocks. Nothing is said of a level of
width or height 0 (U14). -/
def Obligations.ReassemblyMatchesClosedForm : Prop :=
  ∀ (width height : Nat) (stream : List Word), 0 < width → 0 < height →
    stream.length = roundUp4 height * roundUp4 width →
    (reassemble width height stream).length = width * height ∧
    ∀ x y : Nat, x < width → y < height →
      (reassemble width height stream)[y * width + x]? = stream[pixelIndex width x y]?

/-- A compressed level's span is 8 bytes a block for DXT1 and 16 for DXT2 to DXT5, the sizes the commands read (R162). Nothing
is said of a level of width or height 0 (U14). -/
def Obligations.LevelSpansAreWholeBlocks : Prop :=
  ∀ pixelBytes height width : Nat, 0 < height → 0 < width →
    levelSpan .dxt1 pixelBytes height width = some (8 * (roundUp4 height / 4 * (roundUp4 width / 4))) ∧
    (∀ tag : Tag, tag = .dxt2 ∨ tag = .dxt3 ∨ tag = .dxt4 ∨ tag = .dxt5 →
      levelSpan tag pixelBytes height width = some (16 * (roundUp4 height / 4 * (roundUp4 width / 4)))) ∧
    height ≤ roundUp4 height ∧ roundUp4 height % 4 = 0 ∧ 4 ≤ roundUp4 height ∧ roundUp4 height < max height 4 + 4

/-- The dispatcher's walk over the levels takes the level bytes from the input in order, each exactly its span, or fails as
a whole: when it succeeds the slices joined are the input's beginning, one level for each dimension pair (R165, R166), none of
them of width or height 0: such a level is refused, so nothing is claimed of it (U14, log 17). -/
def Obligations.LevelsTakeTheInputInOrder : Prop :=
  ∀ (tag : Tag) (pixelBytes : Nat) (dims : List (Nat × Nat)) (input : List Byte),
    (∀ levels, takeLevels tag pixelBytes dims input = .ok levels →
      levels.map (fun l => (l.height, l.width)) = dims ∧
      levels.flatMap (fun l => l.bytes) <+: input ∧
      ∀ l ∈ levels, 0 < l.height ∧ 0 < l.width ∧ levelSpan tag pixelBytes l.height l.width = some l.bytes.length) ∧
    (unitCommand tag = none → dims ≠ [] → takeLevels tag pixelBytes dims input = .error (.unsupportedCompression tag))

/-- What a decode that succeeds returns: one image for each of the `max(M,1)` dimension pairs, in level order, each of
`width * height` pixels and so of `width * height * 4` bytes, and a block with no fault latched (R161, R165, R167). -/
def Obligations.DecodeReturnsWholeSequence : Prop :=
  ∀ (wanted : Nat) (h : ImageHeader) (input : List Byte) (s t : State) (images : List Image),
    decodeImages wanted h input s = .ok (images, t) →
    images.length = max h.mips 1 ∧
    images.map (fun m => (m.height, m.width)) = (List.range (max h.mips 1)).map (fun i => (h.height / 2 ^ i, h.width / 2 ^ i)) ∧
    (∀ m ∈ images, m.pixels.length = m.width * m.height ∧ (imageBytes m.pixels).length = m.width * m.height * 4) ∧
    t.fault = false

/-- When a decode succeeds and when it fails as a whole, returning no image at all (R165, R166, R167): a supported tag, levels
of positive size, enough bytes, no fault latched and (uncompressed) a supported byte count are enough; an unsupported tag, a
fault latched before, and an unsupported byte count, which makes the block fault, each discard every image. Nothing is claimed
of a level of width or height 0 (U14). -/
def Obligations.DecodeSucceedsOrFailsWhole : Prop :=
  ∀ (wanted : Nat) (h : ImageHeader) (input : List Byte) (s : State),
    let dims := levelDims h.height h.width h.mips
    (s.fault = false → unitCommand h.tag ≠ none → (∀ d ∈ dims, 0 < d.1 ∧ 0 < d.2) →
      (dims.map fun d => (levelSpan h.tag h.pixelBytes.toNat d.1 d.2).getD 0).sum ≤ input.length →
      (h.tag = .none → 1 ≤ h.pixelBytes.toNat ∧ h.pixelBytes.toNat ≤ 4) →
      ∃ (images : List Image) (t : State), decodeImages wanted h input s = .ok (images, t)) ∧
    (unitCommand h.tag = none → decodeImages wanted h input s = .error (.unsupportedCompression h.tag)) ∧
    ((∀ d ∈ dims, 0 < d.1 ∧ 0 < d.2) → s.fault = true ∨ (h.tag = .none ∧ (h.pixelBytes.toNat = 0 ∨ 4 < h.pixelBytes.toNat)) →
      ∃ e : HostError, decodeImages wanted h input s = .error e)

/-- An uncompressed level decodes, and its pixel number `j` is the sample the four lanes give for the little-endian word of the
`pixel_bytes` bytes from byte `j * pixel_bytes`, however many pixels the host loads at once (R163, R91, R92). -/
def Obligations.UncompressedLevelPixels : Prop :=
  ∀ (wanted : Nat) (h : ImageHeader) (level : Level) (s : State),
    h.tag = .none → NoFault s → Configured h.pixelBytes h.maskR h.maskG h.maskB h.maskA h.alphaEn s →
    1 ≤ h.pixelBytes.toNat → h.pixelBytes.toNat ≤ 4 → 0 < level.height → 0 < level.width →
    level.bytes.length = level.height * level.width * h.pixelBytes.toNat →
    ∃ (m : Image) (t : State), decodeLevel wanted h level s = .ok (m, t) ∧ m.height = level.height ∧ m.width = level.width ∧
      m.pixels.length = level.height * level.width ∧
      ∀ j : Nat, j < level.height * level.width → ∃ word : Word,
        word.toNat = ∑ k ∈ Finset.range h.pixelBytes.toNat, (level.bytes.getD (j * h.pixelBytes.toNat + k) 0#8).toNat * 256 ^ k ∧
        m.pixels[j]? = some (rgba (lane word h.maskR) (lane word h.maskG) (lane word h.maskB) (lane word h.maskA))

/-- A compressed level decodes, and its pixel at column `x`, row `y` from the top is sample `4*(3 - y mod 4) + x mod 4` of what
the tag's command makes of the bytes of block `(y/4)*(w/4) + x/4`, whatever block with the same flag and `P_S2LE` runs it
(R164, R165, R172). -/
def Obligations.CompressedLevelPixels : Prop :=
  ∀ (wanted : Nat) (h : ImageHeader) (level : Level) (s : State) (i : Instr),
    unitCommand h.tag = some i → h.tag ≠ .none → NoFault s → 0 < level.height → 0 < level.width →
    level.bytes.length = blockBytes i * (roundUp4 level.height / 4 * (roundUp4 level.width / 4)) →
    ∃ (m : Image) (t : State), decodeLevel wanted h level s = .ok (m, t) ∧ m.height = level.height ∧ m.width = level.width ∧
      m.pixels.length = level.width * level.height ∧
      ∀ x y : Nat, x < level.width → y < level.height → ∀ u u' : State,
        (∀ k : Nat, k < blockBytes i →
          level.bytes[blockBytes i * (y / 4 * (roundUp4 level.width / 4) + x / 4) + k]? = some (ibufByte u k)) →
        u.alphaEn = s.alphaEn → u.s2le = s.s2le → exec i u = .next u' →
        m.pixels[y * level.width + x]? = u'.obuf[4 * (3 - y % 4) + x % 4]?
end

