-- ==== Sys2Proof/Laws/State.lean ====
section
/-! SUPPORT. One lemma for each field of State and each named update: what the field holds afterwards. -/

namespace Sys2Proof.Machine

@[simp] theorem raiseFault_alphaEn (c : FaultCode) (w : Word) (s : State) :
    (raiseFault c w s).alphaEn = s.alphaEn := rfl
@[simp] theorem raiseFault_pixelBytes (c : FaultCode) (w : Word) (s : State) :
    (raiseFault c w s).pixelBytes = s.pixelBytes := rfl
@[simp] theorem raiseFault_fault (c : FaultCode) (w : Word) (s : State) : (raiseFault c w s).fault = true := rfl
@[simp] theorem raiseFault_fcode (c : FaultCode) (w : Word) (s : State) : (raiseFault c w s).fcode = faultBits c := rfl
@[simp] theorem raiseFault_fcmd (c : FaultCode) (w : Word) (s : State) : (raiseFault c w s).fcmd = w := rfl
@[simp] theorem raiseFault_maskR (c : FaultCode) (w : Word) (s : State) : (raiseFault c w s).maskR = s.maskR := rfl
@[simp] theorem raiseFault_maskG (c : FaultCode) (w : Word) (s : State) : (raiseFault c w s).maskG = s.maskG := rfl
@[simp] theorem raiseFault_maskB (c : FaultCode) (w : Word) (s : State) : (raiseFault c w s).maskB = s.maskB := rfl
@[simp] theorem raiseFault_maskA (c : FaultCode) (w : Word) (s : State) : (raiseFault c w s).maskA = s.maskA := rfl
@[simp] theorem raiseFault_ibuf (c : FaultCode) (w : Word) (s : State) : (raiseFault c w s).ibuf = s.ibuf := rfl
@[simp] theorem raiseFault_obuf (c : FaultCode) (w : Word) (s : State) : (raiseFault c w s).obuf = s.obuf := rfl
@[simp] theorem raiseFault_clut (c : FaultCode) (w : Word) (s : State) : (raiseFault c w s).clut = s.clut := rfl
@[simp] theorem raiseFault_alut (c : FaultCode) (w : Word) (s : State) : (raiseFault c w s).alut = s.alut := rfl
@[simp] theorem raiseFault_s2le (c : FaultCode) (w : Word) (s : State) : (raiseFault c w s).s2le = s.s2le := rfl
@[simp] theorem raiseFault_resetCount (c : FaultCode) (w : Word) (s : State) :
    (raiseFault c w s).resetCount = s.resetCount := rfl
@[simp] theorem raiseFault_program (c : FaultCode) (w : Word) (s : State) :
    (raiseFault c w s).program = s.program := rfl
@[simp] theorem raiseFault_answers (c : FaultCode) (w : Word) (s : State) :
    (raiseFault c w s).answers = s.answers := rfl

@[simp] theorem clearFault_alphaEn (s : State) : (clearFault s).alphaEn = s.alphaEn := rfl
@[simp] theorem clearFault_pixelBytes (s : State) : (clearFault s).pixelBytes = s.pixelBytes := rfl
@[simp] theorem clearFault_fault (s : State) : (clearFault s).fault = false := rfl
@[simp] theorem clearFault_fcode (s : State) : (clearFault s).fcode = 0#4 := rfl
@[simp] theorem clearFault_fcmd (s : State) : (clearFault s).fcmd = 0#32 := rfl
@[simp] theorem clearFault_maskR (s : State) : (clearFault s).maskR = s.maskR := rfl
@[simp] theorem clearFault_maskG (s : State) : (clearFault s).maskG = s.maskG := rfl
@[simp] theorem clearFault_maskB (s : State) : (clearFault s).maskB = s.maskB := rfl
@[simp] theorem clearFault_maskA (s : State) : (clearFault s).maskA = s.maskA := rfl
@[simp] theorem clearFault_ibuf (s : State) : (clearFault s).ibuf = s.ibuf := rfl
@[simp] theorem clearFault_obuf (s : State) : (clearFault s).obuf = s.obuf := rfl
@[simp] theorem clearFault_clut (s : State) : (clearFault s).clut = s.clut := rfl
@[simp] theorem clearFault_alut (s : State) : (clearFault s).alut = s.alut := rfl
@[simp] theorem clearFault_s2le (s : State) : (clearFault s).s2le = s.s2le := rfl
@[simp] theorem clearFault_resetCount (s : State) : (clearFault s).resetCount = s.resetCount := rfl
@[simp] theorem clearFault_program (s : State) : (clearFault s).program = s.program := rfl
@[simp] theorem clearFault_answers (s : State) : (clearFault s).answers = s.answers := rfl

@[simp] theorem resetBlock_alphaEn (s : State) : (resetBlock s).alphaEn = false := by
  simp only [resetBlock]
@[simp] theorem resetBlock_pixelBytes (s : State) : (resetBlock s).pixelBytes = 0#3 := by
  simp only [resetBlock]
@[simp] theorem resetBlock_fault (s : State) : (resetBlock s).fault = false := by
  simp only [resetBlock]
@[simp] theorem resetBlock_fcode (s : State) : (resetBlock s).fcode = 0#4 := by
  simp only [resetBlock]
@[simp] theorem resetBlock_fcmd (s : State) : (resetBlock s).fcmd = 0#32 := by
  simp only [resetBlock]
@[simp] theorem resetBlock_maskR (s : State) : (resetBlock s).maskR = 0#32 := by
  simp only [resetBlock]
@[simp] theorem resetBlock_maskG (s : State) : (resetBlock s).maskG = 0#32 := by
  simp only [resetBlock]
@[simp] theorem resetBlock_maskB (s : State) : (resetBlock s).maskB = 0#32 := by
  simp only [resetBlock]
@[simp] theorem resetBlock_maskA (s : State) : (resetBlock s).maskA = 0#32 := by
  simp only [resetBlock]
@[simp] theorem resetBlock_ibuf (s : State) :
    (resetBlock s).ibuf = Vector.ofFn fun k => Config.resetIbuf s.resetCount s.buffers k.val := by
  simp only [resetBlock]
@[simp] theorem resetBlock_obuf (s : State) :
    (resetBlock s).obuf = Vector.ofFn fun k => Config.resetObuf s.resetCount s.buffers k.val := by
  simp only [resetBlock]
@[simp] theorem resetBlock_clut (s : State) :
    (resetBlock s).clut = Vector.ofFn fun k => Config.resetClut s.resetCount s.buffers k.val := by
  simp only [resetBlock]
@[simp] theorem resetBlock_alut (s : State) :
    (resetBlock s).alut = Vector.ofFn fun k => Config.resetAlut s.resetCount s.buffers k.val := by
  simp only [resetBlock]
@[simp] theorem resetBlock_s2le (s : State) : (resetBlock s).s2le = s.s2le := by
  simp only [resetBlock]
@[simp] theorem resetBlock_resetCount (s : State) : (resetBlock s).resetCount = s.resetCount + 1 := by
  simp only [resetBlock]
@[simp] theorem resetBlock_program (s : State) : (resetBlock s).program = s.program := by
  simp only [resetBlock]
@[simp] theorem resetBlock_answers (s : State) : (resetBlock s).answers = s.answers := by
  simp only [resetBlock]

@[simp] theorem writeIbufWord_alphaEn (j : Fin 4) (v : Word) (s : State) :
    (writeIbufWord j v s).alphaEn = s.alphaEn := by
  simp only [writeIbufWord]
@[simp] theorem writeIbufWord_pixelBytes (j : Fin 4) (v : Word) (s : State) :
    (writeIbufWord j v s).pixelBytes = s.pixelBytes := by
  simp only [writeIbufWord]
@[simp] theorem writeIbufWord_fault (j : Fin 4) (v : Word) (s : State) : (writeIbufWord j v s).fault = s.fault := by
  simp only [writeIbufWord]
@[simp] theorem writeIbufWord_fcode (j : Fin 4) (v : Word) (s : State) : (writeIbufWord j v s).fcode = s.fcode := by
  simp only [writeIbufWord]
@[simp] theorem writeIbufWord_fcmd (j : Fin 4) (v : Word) (s : State) : (writeIbufWord j v s).fcmd = s.fcmd := by
  simp only [writeIbufWord]
@[simp] theorem writeIbufWord_maskR (j : Fin 4) (v : Word) (s : State) : (writeIbufWord j v s).maskR = s.maskR := by
  simp only [writeIbufWord]
@[simp] theorem writeIbufWord_maskG (j : Fin 4) (v : Word) (s : State) : (writeIbufWord j v s).maskG = s.maskG := by
  simp only [writeIbufWord]
@[simp] theorem writeIbufWord_maskB (j : Fin 4) (v : Word) (s : State) : (writeIbufWord j v s).maskB = s.maskB := by
  simp only [writeIbufWord]
@[simp] theorem writeIbufWord_maskA (j : Fin 4) (v : Word) (s : State) : (writeIbufWord j v s).maskA = s.maskA := by
  simp only [writeIbufWord]
@[simp] theorem writeIbufWord_obuf (j : Fin 4) (v : Word) (s : State) : (writeIbufWord j v s).obuf = s.obuf := by
  simp only [writeIbufWord]
@[simp] theorem writeIbufWord_clut (j : Fin 4) (v : Word) (s : State) : (writeIbufWord j v s).clut = s.clut := by
  simp only [writeIbufWord]
@[simp] theorem writeIbufWord_alut (j : Fin 4) (v : Word) (s : State) : (writeIbufWord j v s).alut = s.alut := by
  simp only [writeIbufWord]
@[simp] theorem writeIbufWord_s2le (j : Fin 4) (v : Word) (s : State) : (writeIbufWord j v s).s2le = s.s2le := by
  simp only [writeIbufWord]
@[simp] theorem writeIbufWord_resetCount (j : Fin 4) (v : Word) (s : State) :
    (writeIbufWord j v s).resetCount = s.resetCount := by
  simp only [writeIbufWord]
@[simp] theorem writeIbufWord_program (j : Fin 4) (v : Word) (s : State) :
    (writeIbufWord j v s).program = s.program := by
  simp only [writeIbufWord]
@[simp] theorem writeIbufWord_answers (j : Fin 4) (v : Word) (s : State) :
    (writeIbufWord j v s).answers = s.answers := by
  simp only [writeIbufWord]

@[simp] theorem writeSample_alphaEn (d : BitVec 4) (v : Word) (s : State) :
    (writeSample d v s).alphaEn = s.alphaEn := rfl
@[simp] theorem writeSample_pixelBytes (d : BitVec 4) (v : Word) (s : State) :
    (writeSample d v s).pixelBytes = s.pixelBytes := rfl
@[simp] theorem writeSample_fault (d : BitVec 4) (v : Word) (s : State) : (writeSample d v s).fault = s.fault := rfl
@[simp] theorem writeSample_fcode (d : BitVec 4) (v : Word) (s : State) : (writeSample d v s).fcode = s.fcode := rfl
@[simp] theorem writeSample_fcmd (d : BitVec 4) (v : Word) (s : State) : (writeSample d v s).fcmd = s.fcmd := rfl
@[simp] theorem writeSample_maskR (d : BitVec 4) (v : Word) (s : State) : (writeSample d v s).maskR = s.maskR := rfl
@[simp] theorem writeSample_maskG (d : BitVec 4) (v : Word) (s : State) : (writeSample d v s).maskG = s.maskG := rfl
@[simp] theorem writeSample_maskB (d : BitVec 4) (v : Word) (s : State) : (writeSample d v s).maskB = s.maskB := rfl
@[simp] theorem writeSample_maskA (d : BitVec 4) (v : Word) (s : State) : (writeSample d v s).maskA = s.maskA := rfl
@[simp] theorem writeSample_ibuf (d : BitVec 4) (v : Word) (s : State) : (writeSample d v s).ibuf = s.ibuf := rfl
@[simp] theorem writeSample_obuf (d : BitVec 4) (v : Word) (s : State) :
    (writeSample d v s).obuf = s.obuf.set d.toNat v d.isLt := rfl
@[simp] theorem writeSample_clut (d : BitVec 4) (v : Word) (s : State) : (writeSample d v s).clut = s.clut := rfl
@[simp] theorem writeSample_alut (d : BitVec 4) (v : Word) (s : State) : (writeSample d v s).alut = s.alut := rfl
@[simp] theorem writeSample_s2le (d : BitVec 4) (v : Word) (s : State) : (writeSample d v s).s2le = s.s2le := rfl
@[simp] theorem writeSample_resetCount (d : BitVec 4) (v : Word) (s : State) :
    (writeSample d v s).resetCount = s.resetCount := rfl
@[simp] theorem writeSample_program (d : BitVec 4) (v : Word) (s : State) :
    (writeSample d v s).program = s.program := rfl
@[simp] theorem writeSample_answers (d : BitVec 4) (v : Word) (s : State) :
    (writeSample d v s).answers = s.answers := rfl

@[simp] theorem writeTexels_alphaEn (f : Nat → Nat → Word) (s : State) : (writeTexels f s).alphaEn = s.alphaEn := by
  simp only [writeTexels]
@[simp] theorem writeTexels_pixelBytes (f : Nat → Nat → Word) (s : State) :
    (writeTexels f s).pixelBytes = s.pixelBytes := by
  simp only [writeTexels]
@[simp] theorem writeTexels_fault (f : Nat → Nat → Word) (s : State) : (writeTexels f s).fault = s.fault := by
  simp only [writeTexels]
@[simp] theorem writeTexels_fcode (f : Nat → Nat → Word) (s : State) : (writeTexels f s).fcode = s.fcode := by
  simp only [writeTexels]
@[simp] theorem writeTexels_fcmd (f : Nat → Nat → Word) (s : State) : (writeTexels f s).fcmd = s.fcmd := by
  simp only [writeTexels]
@[simp] theorem writeTexels_maskR (f : Nat → Nat → Word) (s : State) : (writeTexels f s).maskR = s.maskR := by
  simp only [writeTexels]
@[simp] theorem writeTexels_maskG (f : Nat → Nat → Word) (s : State) : (writeTexels f s).maskG = s.maskG := by
  simp only [writeTexels]
@[simp] theorem writeTexels_maskB (f : Nat → Nat → Word) (s : State) : (writeTexels f s).maskB = s.maskB := by
  simp only [writeTexels]
@[simp] theorem writeTexels_maskA (f : Nat → Nat → Word) (s : State) : (writeTexels f s).maskA = s.maskA := by
  simp only [writeTexels]
@[simp] theorem writeTexels_ibuf (f : Nat → Nat → Word) (s : State) : (writeTexels f s).ibuf = s.ibuf := by
  simp only [writeTexels]
@[simp] theorem writeTexels_obuf (f : Nat → Nat → Word) (s : State) :
    (writeTexels f s).obuf = Vector.ofFn fun n => f (n.val / 4) (n.val % 4) := by
  simp only [writeTexels]
@[simp] theorem writeTexels_clut (f : Nat → Nat → Word) (s : State) : (writeTexels f s).clut = s.clut := by
  simp only [writeTexels]
@[simp] theorem writeTexels_alut (f : Nat → Nat → Word) (s : State) : (writeTexels f s).alut = s.alut := by
  simp only [writeTexels]
@[simp] theorem writeTexels_s2le (f : Nat → Nat → Word) (s : State) : (writeTexels f s).s2le = s.s2le := by
  simp only [writeTexels]
@[simp] theorem writeTexels_resetCount (f : Nat → Nat → Word) (s : State) :
    (writeTexels f s).resetCount = s.resetCount := by
  simp only [writeTexels]
@[simp] theorem writeTexels_program (f : Nat → Nat → Word) (s : State) : (writeTexels f s).program = s.program := by
  simp only [writeTexels]
@[simp] theorem writeTexels_answers (f : Nat → Nat → Word) (s : State) : (writeTexels f s).answers = s.answers := by
  simp only [writeTexels]

@[simp] theorem writeClut_alphaEn (t : Vector Word 4) (s : State) : (writeClut t s).alphaEn = s.alphaEn := rfl
@[simp] theorem writeClut_pixelBytes (t : Vector Word 4) (s : State) : (writeClut t s).pixelBytes = s.pixelBytes := rfl
@[simp] theorem writeClut_fault (t : Vector Word 4) (s : State) : (writeClut t s).fault = s.fault := rfl
@[simp] theorem writeClut_fcode (t : Vector Word 4) (s : State) : (writeClut t s).fcode = s.fcode := rfl
@[simp] theorem writeClut_fcmd (t : Vector Word 4) (s : State) : (writeClut t s).fcmd = s.fcmd := rfl
@[simp] theorem writeClut_maskR (t : Vector Word 4) (s : State) : (writeClut t s).maskR = s.maskR := rfl
@[simp] theorem writeClut_maskG (t : Vector Word 4) (s : State) : (writeClut t s).maskG = s.maskG := rfl
@[simp] theorem writeClut_maskB (t : Vector Word 4) (s : State) : (writeClut t s).maskB = s.maskB := rfl
@[simp] theorem writeClut_maskA (t : Vector Word 4) (s : State) : (writeClut t s).maskA = s.maskA := rfl
@[simp] theorem writeClut_ibuf (t : Vector Word 4) (s : State) : (writeClut t s).ibuf = s.ibuf := rfl
@[simp] theorem writeClut_obuf (t : Vector Word 4) (s : State) : (writeClut t s).obuf = s.obuf := rfl
@[simp] theorem writeClut_clut (t : Vector Word 4) (s : State) : (writeClut t s).clut = t := rfl
@[simp] theorem writeClut_alut (t : Vector Word 4) (s : State) : (writeClut t s).alut = s.alut := rfl
@[simp] theorem writeClut_s2le (t : Vector Word 4) (s : State) : (writeClut t s).s2le = s.s2le := rfl
@[simp] theorem writeClut_resetCount (t : Vector Word 4) (s : State) : (writeClut t s).resetCount = s.resetCount := rfl
@[simp] theorem writeClut_program (t : Vector Word 4) (s : State) : (writeClut t s).program = s.program := rfl
@[simp] theorem writeClut_answers (t : Vector Word 4) (s : State) : (writeClut t s).answers = s.answers := rfl

@[simp] theorem writeAlut_alphaEn (t : Vector Byte 8) (s : State) : (writeAlut t s).alphaEn = s.alphaEn := rfl
@[simp] theorem writeAlut_pixelBytes (t : Vector Byte 8) (s : State) : (writeAlut t s).pixelBytes = s.pixelBytes := rfl
@[simp] theorem writeAlut_fault (t : Vector Byte 8) (s : State) : (writeAlut t s).fault = s.fault := rfl
@[simp] theorem writeAlut_fcode (t : Vector Byte 8) (s : State) : (writeAlut t s).fcode = s.fcode := rfl
@[simp] theorem writeAlut_fcmd (t : Vector Byte 8) (s : State) : (writeAlut t s).fcmd = s.fcmd := rfl
@[simp] theorem writeAlut_maskR (t : Vector Byte 8) (s : State) : (writeAlut t s).maskR = s.maskR := rfl
@[simp] theorem writeAlut_maskG (t : Vector Byte 8) (s : State) : (writeAlut t s).maskG = s.maskG := rfl
@[simp] theorem writeAlut_maskB (t : Vector Byte 8) (s : State) : (writeAlut t s).maskB = s.maskB := rfl
@[simp] theorem writeAlut_maskA (t : Vector Byte 8) (s : State) : (writeAlut t s).maskA = s.maskA := rfl
@[simp] theorem writeAlut_ibuf (t : Vector Byte 8) (s : State) : (writeAlut t s).ibuf = s.ibuf := rfl
@[simp] theorem writeAlut_obuf (t : Vector Byte 8) (s : State) : (writeAlut t s).obuf = s.obuf := rfl
@[simp] theorem writeAlut_clut (t : Vector Byte 8) (s : State) : (writeAlut t s).clut = s.clut := rfl
@[simp] theorem writeAlut_alut (t : Vector Byte 8) (s : State) : (writeAlut t s).alut = t := rfl
@[simp] theorem writeAlut_s2le (t : Vector Byte 8) (s : State) : (writeAlut t s).s2le = s.s2le := rfl
@[simp] theorem writeAlut_resetCount (t : Vector Byte 8) (s : State) : (writeAlut t s).resetCount = s.resetCount := rfl
@[simp] theorem writeAlut_program (t : Vector Byte 8) (s : State) : (writeAlut t s).program = s.program := rfl
@[simp] theorem writeAlut_answers (t : Vector Byte 8) (s : State) : (writeAlut t s).answers = s.answers := rfl

@[simp] theorem answered_alphaEn (a : Answer) (s : State) : (answered a s).alphaEn = s.alphaEn := rfl
@[simp] theorem answered_pixelBytes (a : Answer) (s : State) : (answered a s).pixelBytes = s.pixelBytes := rfl
@[simp] theorem answered_fault (a : Answer) (s : State) : (answered a s).fault = s.fault := rfl
@[simp] theorem answered_fcode (a : Answer) (s : State) : (answered a s).fcode = s.fcode := rfl
@[simp] theorem answered_fcmd (a : Answer) (s : State) : (answered a s).fcmd = s.fcmd := rfl
@[simp] theorem answered_maskR (a : Answer) (s : State) : (answered a s).maskR = s.maskR := rfl
@[simp] theorem answered_maskG (a : Answer) (s : State) : (answered a s).maskG = s.maskG := rfl
@[simp] theorem answered_maskB (a : Answer) (s : State) : (answered a s).maskB = s.maskB := rfl
@[simp] theorem answered_maskA (a : Answer) (s : State) : (answered a s).maskA = s.maskA := rfl
@[simp] theorem answered_ibuf (a : Answer) (s : State) : (answered a s).ibuf = s.ibuf := rfl
@[simp] theorem answered_obuf (a : Answer) (s : State) : (answered a s).obuf = s.obuf := rfl
@[simp] theorem answered_clut (a : Answer) (s : State) : (answered a s).clut = s.clut := rfl
@[simp] theorem answered_alut (a : Answer) (s : State) : (answered a s).alut = s.alut := rfl
@[simp] theorem answered_s2le (a : Answer) (s : State) : (answered a s).s2le = s.s2le := rfl
@[simp] theorem answered_resetCount (a : Answer) (s : State) : (answered a s).resetCount = s.resetCount := rfl
@[simp] theorem answered_program (a : Answer) (s : State) : (answered a s).program = s.program := rfl
@[simp] theorem answered_answers (a : Answer) (s : State) : (answered a s).answers = a :: s.answers := rfl

end Sys2Proof.Machine
end

