-- ==== Sys2Proof/Laws/Operands.lean ====
section
/-! SUPPORT. Laws of the operand forms: bytes, little-endian reads, and samples taken apart and put together. -/

namespace Sys2Proof.Machine

theorem ibufByte_of_lt (s : State) {k : Nat} (h : k < 16) : ibufByte s k = s.ibuf[k] := by
  simp [ibufByte, h]

theorem ibufByte_congr {s t : State} (h : s.ibuf = t.ibuf) (k : Nat) : ibufByte s k = ibufByte t k := by
  simp [ibufByte, h]

@[simp] theorem memRead_zero (s : State) (k : Nat) : memRead s k 0 = 0 := rfl

theorem memRead_succ (s : State) (k n : Nat) :
    memRead s k (n + 1) = (ibufByte s k).toNat + 256 * memRead s (k + 1) n := rfl

theorem memRead_congr {s t : State} (h : s.ibuf = t.ibuf) (k n : Nat) : memRead s k n = memRead t k n := by
  induction n generalizing k with
  | zero => rfl
  | succ n ih => rw [memRead_succ, memRead_succ, ibufByte_congr h, ih]

/-- `MemRead(k, n)` is an unsigned number of `8*n` bits (00_scope.md R16). -/
theorem memRead_lt (s : State) (k n : Nat) : memRead s k n < 256 ^ n := by
  induction n generalizing k with
  | zero => simp
  | succ n ih =>
    have hb : (ibufByte s k).toNat < 256 := (ibufByte s k).isLt
    have := ih (k + 1)
    rw [memRead_succ, Nat.pow_succ]
    omega

/-- A colour endpoint is its two bytes, the lower one least significant (41_lut.md R101). -/
theorem endpoint_toNat (s : State) (k : Nat) :
    (endpoint s k).toNat = (ibufByte s k).toNat + 256 * (ibufByte s (k + 1)).toNat := by
  have h0 : (ibufByte s k).toNat < 256 := (ibufByte s k).isLt
  have h1 : (ibufByte s (k + 1)).toNat < 256 := (ibufByte s (k + 1)).isLt
  simp only [endpoint, memRead, BitVec.toNat_ofNat]
  omega

/-- No bit of the alpha selector field is lost (44_dxt45.md R143). -/
theorem alphaField_toNat (s : State) : (alphaField s).toNat = memRead s 2 6 := by
  have := memRead_lt s 2 6
  simp only [alphaField, BitVec.toNat_ofNat]
  omega

theorem endpoint_congr {s t : State} (h : s.ibuf = t.ibuf) (k : Nat) : endpoint s k = endpoint t k := by
  simp only [endpoint, memRead_congr h]

theorem cSel_congr {s t : State} (h : s.ibuf = t.ibuf) (base e col : Nat) : cSel s base e col = cSel t base e col := by
  simp only [cSel, ibufByte_congr h]

theorem alphaNibble_congr {s t : State} (h : s.ibuf = t.ibuf) (e col : Nat) : alphaNibble s e col = alphaNibble t e col := by
  simp only [alphaNibble, ibufByte_congr h]

theorem alphaSel_congr {s t : State} (h : s.ibuf = t.ibuf) (e col : Nat) : alphaSel s e col = alphaSel t e col := by
  simp only [alphaSel, alphaField, memRead_congr h]

/-- Packing loses nothing: the four bytes lie side by side. -/
theorem packBytes_toNat (b0 b1 b2 b3 : Byte) :
    (packBytes b0 b1 b2 b3).toNat = b0.toNat + b1.toNat * 2 ^ 8 + b2.toNat * 2 ^ 16 + b3.toNat * 2 ^ 24 := by
  have h0 := b0.isLt
  have h1 := b1.isLt
  have h2 := b2.isLt
  have h3 := b3.isLt
  simp only [packBytes, BitVec.toNat_ofNat]
  omega

/-- Byte `i` of a packed word. -/
theorem packBytes_byte (b0 b1 b2 b3 : Byte) :
    (packBytes b0 b1 b2 b3).extractLsb' 0 8 = b0 ∧ (packBytes b0 b1 b2 b3).extractLsb' 8 8 = b1 ∧
      (packBytes b0 b1 b2 b3).extractLsb' 16 8 = b2 ∧ (packBytes b0 b1 b2 b3).extractLsb' 24 8 = b3 := by
  have h0 := b0.isLt
  have h1 := b1.isLt
  have h2 := b2.isLt
  have h3 := b3.isLt
  refine ⟨?_, ?_, ?_, ?_⟩ <;>
    (apply BitVec.eq_of_toNat_eq
     rw [BitVec.extractLsb'_toNat, packBytes_toNat, Nat.shiftRight_eq_div_pow]
     omega)

@[simp] theorem sampleR_rgba (r g b a : Byte) : sampleR (rgba r g b a) = r := (packBytes_byte r g b a).1
@[simp] theorem sampleG_rgba (r g b a : Byte) : sampleG (rgba r g b a) = g := (packBytes_byte r g b a).2.1
@[simp] theorem sampleB_rgba (r g b a : Byte) : sampleB (rgba r g b a) = b := (packBytes_byte r g b a).2.2.1
@[simp] theorem sampleA_rgba (r g b a : Byte) : sampleA (rgba r g b a) = a := (packBytes_byte r g b a).2.2.2

/-- A sample is its four channels (00_scope.md R17). -/
theorem rgba_samples (v : Word) : rgba (sampleR v) (sampleG v) (sampleB v) (sampleA v) = v := by
  apply BitVec.eq_of_toNat_eq
  have := v.isLt
  simp only [rgba, packBytes_toNat, sampleR, sampleG, sampleB, sampleA, BitVec.extractLsb'_toNat, Nat.shiftRight_eq_div_pow]
  omega

end Sys2Proof.Machine
end

