-- ==== Sys2Proof/Laws/Tables.lean ====
section
/-! SUPPORT. Laws of the lane, of rescaling and of the two interpolation tables: every channel fits 8 bits, so that
nothing is lost when an entry is packed. -/

namespace Sys2Proof.Machine

@[simp] theorem lane_zero_mask (word : Word) : lane word 0#32 = 0#8 := rfl

theorem lane_toNat (word : Word) {m : Word} (h : m ≠ 0#32) :
    (lane word m).toNat = ((word &&& m).toNat >>> ctz32 m) * 255 / (2 ^ popcount32 m - 1) % 256 := by
  simp [lane, h]

/-- A rescaled `n`-bit value fits 8 bits (41_lut.md R100). -/
theorem scale_le (v n : Nat) (h : v < 2 ^ n) : scale v n ≤ 255 := by
  unfold scale
  rcases Nat.eq_zero_or_pos (2 ^ n - 1) with h0 | h0
  · simp [h0]
  · calc v * 255 / (2 ^ n - 1) ≤ (2 ^ n - 1) * 255 / (2 ^ n - 1) := Nat.div_le_div_right (Nat.mul_le_mul_right _ (by omega))
      _ = 255 := by rw [Nat.mul_comm]; exact Nat.mul_div_cancel _ h0

theorem unpack565_le (c : BitVec 16) : (unpack565 c).r ≤ 255 ∧ (unpack565 c).g ≤ 255 ∧ (unpack565 c).b ≤ 255 :=
  ⟨scale_le _ 5 (BitVec.isLt _), scale_le _ 6 (BitVec.isLt _), scale_le _ 5 (BitVec.isLt _)⟩

@[simp] theorem sampleR_withAlpha (c : Rgb) (a : Byte) : sampleR (c.withAlpha a) = BitVec.ofNat 8 c.r := by
  simp [Rgb.withAlpha]

@[simp] theorem sampleG_withAlpha (c : Rgb) (a : Byte) : sampleG (c.withAlpha a) = BitVec.ofNat 8 c.g := by
  simp [Rgb.withAlpha]

@[simp] theorem sampleB_withAlpha (c : Rgb) (a : Byte) : sampleB (c.withAlpha a) = BitVec.ofNat 8 c.b := by
  simp [Rgb.withAlpha]

@[simp] theorem sampleA_withAlpha (c : Rgb) (a : Byte) : sampleA (c.withAlpha a) = a := by
  simp [Rgb.withAlpha]

@[simp] theorem sampleR_replaceAlpha (v : Word) (a : Byte) : sampleR (replaceAlpha v a) = sampleR v := by
  simp [replaceAlpha]

@[simp] theorem sampleG_replaceAlpha (v : Word) (a : Byte) : sampleG (replaceAlpha v a) = sampleG v := by
  simp [replaceAlpha]

@[simp] theorem sampleB_replaceAlpha (v : Word) (a : Byte) : sampleB (replaceAlpha v a) = sampleB v := by
  simp [replaceAlpha]

@[simp] theorem sampleA_replaceAlpha (v : Word) (a : Byte) : sampleA (replaceAlpha v a) = a := by
  simp [replaceAlpha]

@[simp] theorem colourLUT_entry0 (p : S2LE) (c0 c1 : BitVec 16) (pol : Policy) (ae : Bool) :
    (colourLUT p c0 c1 pol ae)[0] = (unpack565 c0).withAlpha 255#8 := rfl

@[simp] theorem colourLUT_entry1 (p : S2LE) (c0 c1 : BitVec 16) (pol : Policy) (ae : Bool) :
    (colourLUT p c0 c1 pol ae)[1] = (unpack565 c1).withAlpha 255#8 := rfl

@[simp] theorem colourLUT_entry2 (p : S2LE) (c0 c1 : BitVec 16) (pol : Policy) (ae : Bool) :
    (colourLUT p c0 c1 pol ae)[2] = entry2 p (fourColours c0 c1 pol) (unpack565 c0) (unpack565 c1) := rfl

@[simp] theorem colourLUT_entry3 (p : S2LE) (c0 c1 : BitVec 16) (pol : Policy) (ae : Bool) :
    (colourLUT p c0 c1 pol ae)[3] = entry3 (fourColours c0 c1 pol) ae (unpack565 c0) (unpack565 c1) := rfl

/-- Blending two values stays between them. -/
theorem twoThirds_between (x y : Nat) : min x y ≤ (2 * x + y) / 3 ∧ (2 * x + y) / 3 ≤ max x y := by omega

/-- With `FOUR` the flag is not read (R110). -/
theorem colourLUT_four_flag (p : S2LE) (c0 c1 : BitVec 16) (ae ae' : Bool) :
    colourLUT p c0 c1 .four ae = colourLUT p c0 c1 .four ae' := rfl

/-- An entry of the alpha table's scale needs no truncation (R115). -/
theorem alphaStep_toNat (n k : Nat) (a0 a1 : Byte) (hn : 0 < n) (hk : k ≤ n) :
    (alphaStep n k a0 a1).toNat = ((n - k) * a0.toNat + k * a1.toNat) / n := by
  have h0 : a0.toNat ≤ 255 := by have := a0.isLt; omega
  have h1 : a1.toNat ≤ 255 := by have := a1.isLt; omega
  have hs : (n - k) * a0.toNat + k * a1.toNat ≤ n * 255 := by
    calc (n - k) * a0.toNat + k * a1.toNat ≤ (n - k) * 255 + k * 255 :=
          Nat.add_le_add (Nat.mul_le_mul_left _ h0) (Nat.mul_le_mul_left _ h1)
      _ = n * 255 := by rw [← Nat.add_mul, Nat.sub_add_cancel hk]
  have hd : ((n - k) * a0.toNat + k * a1.toNat) / n ≤ 255 := by
    calc _ ≤ n * 255 / n := Nat.div_le_div_right hs
      _ = 255 := Nat.mul_div_cancel_left _ hn
  simp only [alphaStep, BitVec.toNat_ofNat]
  exact Nat.mod_eq_of_lt (by omega)

end Sys2Proof.Machine
end

