-- ==== Sys2Proof/Laws/Dxt.lean ====
section
/-! SUPPORT. Laws of pixels and blocks: what a selector is as a number, which sample a texel lands in, and that tables, pixels
and texels are functions of `IBUF`, the configuration and `P_S2LE` alone (20_memory.md R62). -/

namespace Sys2Proof.Machine

theorem cSel_toNat (s : State) (base e col : Nat) :
    (cSel s base e col).toNat = (ibufByte s (base + (3 - e))).toNat / 2 ^ (2 * col) % 4 := by
  rw [cSel, BitVec.extractLsb'_toNat, Nat.shiftRight_eq_div_pow]

theorem alphaNibble_toNat (s : State) (e col : Nat) :
    (alphaNibble s e col).toNat = (ibufByte s (2 * (3 - e) + col / 2)).toNat / 2 ^ (4 * (col % 2)) % 16 := by
  rw [alphaNibble, BitVec.extractLsb'_toNat, Nat.shiftRight_eq_div_pow]

theorem alphaSel_toNat (s : State) (e col : Nat) :
    (alphaSel s e col).toNat = memRead s 2 6 / 2 ^ (3 * (4 * (3 - e) + col)) % 8 := by
  rw [alphaSel, BitVec.extractLsb'_toNat, Nat.shiftRight_eq_div_pow, alphaField_toNat]

/-- The lookup of a selector never misses. -/
theorem colourAt_eq (table : Vector Word 4) (sel : BitVec 2) : table[sel.toNat]? = some (colourAt table sel) :=
  Vector.getElem?_eq_getElem sel.isLt

theorem alphaAt_eq (table : Vector Byte 8) (sel : BitVec 3) : table[sel.toNat]? = some (alphaAt table sel) :=
  Vector.getElem?_eq_getElem sel.isLt

/-- Where a texel lands: emission row `e`, column `col` is sample `4*e + col` (41_lut.md R108). -/
theorem writeTexels_sample (f : Nat → Nat → Word) (s : State) {e col : Nat} (he : e < 4) (hc : col < 4) :
    (writeTexels f s).obuf[4 * e + col]? = some (f e col) := by
  have hn : 4 * e + col < 16 := by omega
  have h1 : (4 * e + col) / 4 = e := by omega
  have h2 : (4 * e + col) % 4 = col := by omega
  rw [Vector.getElem?_eq_getElem hn]
  simp only [writeTexels_obuf, Vector.getElem_ofFn, h1, h2]

/-- Only the texels inside the block matter. -/
theorem writeTexels_congr {f g : Nat → Nat → Word} {s : State} (h : ∀ e col, e < 4 → col < 4 → f e col = g e col) :
    writeTexels f s = writeTexels g s := by
  have hv : (Vector.ofFn fun n : Fin 16 => f (n.val / 4) (n.val % 4)) = Vector.ofFn fun n : Fin 16 => g (n.val / 4) (n.val % 4) :=
    congrArg Vector.ofFn (funext fun n => h _ _ (by omega) (by omega))
  simp only [writeTexels, hv]

theorem writeTexels_twice (f g : Nat → Nat → Word) (s : State) : writeTexels f (writeTexels g s) = writeTexels f s := by
  simp only [writeTexels]

theorem colourTableAt_congr {s t : State} (hi : s.ibuf = t.ibuf) (hp : s.s2le = t.s2le) (k : Nat) (pol : Policy) (ae : Bool) :
    colourTableAt s k pol ae = colourTableAt t k pol ae := by
  simp only [colourTableAt, endpoint_congr hi, hp]

theorem alphaTableAt_congr {s t : State} (hi : s.ibuf = t.ibuf) (k : Nat) : alphaTableAt s k = alphaTableAt t k := by
  simp only [alphaTableAt, ibufByte_congr hi]

theorem dxt1Table_congr {s t : State} (hi : s.ibuf = t.ibuf) (hp : s.s2le = t.s2le) (ha : s.alphaEn = t.alphaEn) :
    dxt1Table s = dxt1Table t := by
  simp only [dxt1Table, colourTableAt_congr hi hp, ha]

theorem dxt2345Table_congr {s t : State} (hi : s.ibuf = t.ibuf) (hp : s.s2le = t.s2le) : dxt2345Table s = dxt2345Table t := by
  simp only [dxt2345Table, colourTableAt_congr hi hp]

theorem dxt1Texel_congr {s t : State} (hi : s.ibuf = t.ibuf) (hp : s.s2le = t.s2le) (ha : s.alphaEn = t.alphaEn) :
    dxt1Texel s = dxt1Texel t := by
  funext e col
  simp only [dxt1Texel, dxt1Table_congr hi hp ha, cSel_congr hi]

theorem dxt23Texel_congr {s t : State} (hi : s.ibuf = t.ibuf) (hp : s.s2le = t.s2le) : dxt23Texel s = dxt23Texel t := by
  funext e col
  simp only [dxt23Texel, dxt2345Table_congr hi hp, cSel_congr hi, explicitAlpha, alphaNibble_congr hi]

theorem dxt45Texel_congr {s t : State} (hi : s.ibuf = t.ibuf) (hp : s.s2le = t.s2le) : dxt45Texel s = dxt45Texel t := by
  funext e col
  simp only [dxt45Texel, dxt2345Table_congr hi hp, cSel_congr hi, alphaTableAt_congr hi, alphaSel_congr hi]

theorem pixelWord_congr {s t : State} (hi : s.ibuf = t.ibuf) (hb : s.pixelBytes = t.pixelBytes) (src : BitVec 4) :
    pixelWord s src = pixelWord t src := by
  simp only [pixelWord, memRead_congr hi, hb]

theorem pixelSample_congr {s t : State} (hr : s.maskR = t.maskR) (hg : s.maskG = t.maskG) (hb : s.maskB = t.maskB)
    (ha : s.maskA = t.maskA) (word : Word) : pixelSample s word = pixelSample t word := by
  simp only [pixelSample, hr, hg, hb, ha]

/-- The pixel word is its bytes, nothing lost and zero above (40_pix.md R92). -/
theorem pixelWord_toNat (s : State) (src : BitVec 4) (h : s.pixelBytes.toNat ≤ 4) :
    (pixelWord s src).toNat = memRead s src.toNat s.pixelBytes.toNat := by
  have h1 := memRead_lt s src.toNat s.pixelBytes.toNat
  have h2 : 256 ^ s.pixelBytes.toNat ≤ 256 ^ 4 := Nat.pow_le_pow_right (by decide) h
  simp only [pixelWord, BitVec.toNat_ofNat]
  exact Nat.mod_eq_of_lt (by omega)

end Sys2Proof.Machine
end

