-- ==== Sys2Proof/Laws/Exec.lean ====
section
/-! SUPPORT. What a command can do, said once: each of the thirteen commands, then the gate and the decoder. -/

namespace Sys2Proof.Machine

/-- What the effect of a command is made of: nothing, the latch, one sample, a table, or a whole block. -/
theorem exec_cases (i : Instr) (s : State) :
    exec i s = .next s ∨ (∃ c, exec i s = .next (raiseFault c (encode i) s)) ∨
      (∃ d v, exec i s = .next (writeSample d v s)) ∨ (∃ t, exec i s = .next (writeClut t s)) ∨
      (∃ a, exec i s = .next (writeAlut a s)) ∨ (∃ f t, exec i s = .next (writeTexels f (writeClut t s))) ∨
      (∃ f t a, exec i s = .next (writeTexels f (writeClut t (writeAlut a s)))) := by
  cases i with
  | nop => exact .inl rfl
  | pix src dst =>
    simp only [exec, execPix]
    split
    · exact .inr (.inl ⟨_, rfl⟩)
    · split
      · exact .inr (.inl ⟨_, rfl⟩)
      · exact .inr (.inr (.inl ⟨_, _, rfl⟩))
  | lutc src pol =>
    simp only [exec, execLutc]
    split
    · exact .inr (.inl ⟨_, rfl⟩)
    · exact .inr (.inr (.inr (.inl ⟨_, rfl⟩)))
  | luta src =>
    simp only [exec, execLuta]
    split
    · exact .inr (.inl ⟨_, rfl⟩)
    · exact .inr (.inr (.inr (.inr (.inl ⟨_, rfl⟩))))
  | dxt1 => exact .inr (.inr (.inr (.inr (.inr (.inl ⟨_, _, rfl⟩)))))
  | dxt2 => exact .inr (.inr (.inr (.inr (.inr (.inl ⟨_, _, rfl⟩)))))
  | dxt3 => exact .inr (.inr (.inr (.inr (.inr (.inl ⟨_, _, rfl⟩)))))
  | dxt4 => exact .inr (.inr (.inr (.inr (.inr (.inr ⟨_, _, _, rfl⟩)))))
  | dxt5 => exact .inr (.inr (.inr (.inr (.inr (.inr ⟨_, _, _, rfl⟩)))))
  | dx10 => exact .inr (.inl ⟨_, rfl⟩)
  | reservedTag0 => exact .inr (.inl ⟨_, rfl⟩)
  | reservedTag7 => exact .inr (.inl ⟨_, rfl⟩)
  | reservedTag8To15 tag => exact .inr (.inl ⟨_, rfl⟩)

/-- No command touches the registers the host configures, the input buffer or the model's own fields. -/
theorem exec_keeps {i : Instr} {s t : State} (h : exec i s = .next t) :
    t.alphaEn = s.alphaEn ∧ t.pixelBytes = s.pixelBytes ∧ t.maskR = s.maskR ∧ t.maskG = s.maskG ∧ t.maskB = s.maskB ∧
      t.maskA = s.maskA ∧ t.ibuf = s.ibuf ∧ t.s2le = s.s2le ∧ t.resetCount = s.resetCount ∧ t.program = s.program ∧
      t.answers = s.answers := by
  obtain h' | ⟨_, h'⟩ | ⟨_, _, h'⟩ | ⟨_, h'⟩ | ⟨_, h'⟩ | ⟨_, _, h'⟩ | ⟨_, _, _, h'⟩ := exec_cases i s <;>
    (rw [h'] at h; cases h; simp)

@[simp] theorem runCommand_faulted (w : Word) {s : State} (h : s.fault = true) : runCommand w s = .next s := by
  simp [runCommand, h]

theorem runCommand_decoded {w : Word} {i : Instr} {s : State} (h : s.fault = false) (hd : decode w = .command i) :
    runCommand w s = exec i s := by
  simp [runCommand, runDecoded, h, hd]

theorem runCommand_illegal {w : Word} {why : IllegalWord} {s : State} (h : s.fault = false) (hd : decode w = .illegal why) :
    runCommand w s = .next (raiseFault .illegalCommand w s) := by
  simp [runCommand, runDecoded, h, hd]

end Sys2Proof.Machine
end

