-- ==== Sys2Proof/Laws/Window.lean ====
section
/-! SUPPORT. Laws of the register window: the map read in both directions. -/

namespace Sys2Proof.Machine

theorem mem_allRegs (r : Reg) : r ∈ allRegs := by
  cases r with
  | ibuf j => revert j; decide
  | clut i => revert i; decide
  | obuf n => revert n; decide
  | _ => decide

theorem regOffset_of_regAt {off : Nat} {r : Reg} (h : regAt off = some r) : regOffset r = off := by
  have := List.find?_some h
  simpa using this

theorem regAt_regOffset (r : Reg) : regAt (regOffset r) = some r := by
  cases r with
  | ibuf j => revert j; decide
  | clut i => revert i; decide
  | obuf n => revert n; decide
  | _ => decide

theorem regOffset_aligned (r : Reg) : regOffset r % 4 = 0 ∧ regOffset r < 256 := by
  cases r with
  | ibuf j => exact ⟨by simp only [regOffset]; omega, by simp only [regOffset]; omega⟩
  | clut i => exact ⟨by simp only [regOffset]; omega, by simp only [regOffset]; omega⟩
  | obuf n => exact ⟨by simp only [regOffset]; omega, by simp only [regOffset]; omega⟩
  | _ => decide

/-- Which accesses reach a register: 32 bits wide, at the register's own offset. -/
theorem accessedReg_eq_some {off width : Nat} {r : Reg} : accessedReg off width = some r ↔ width = 32 ∧ off = regOffset r := by
  have hr := regOffset_aligned r
  constructor
  · intro h
    unfold accessedReg at h
    by_cases hw : width ≠ Config.accessBits
    · rw [if_pos hw] at h; cases h
    · rw [if_neg hw] at h
      by_cases ha : off % 4 ≠ 0
      · rw [if_pos ha] at h; cases h
      · rw [if_neg ha] at h
        by_cases hb : Config.windowBytes ≤ off
        · rw [if_pos hb] at h; cases h
        · rw [if_neg hb] at h
          exact ⟨not_not.1 hw, (regOffset_of_regAt h).symm⟩
  · rintro ⟨rfl, rfl⟩
    have h1 : ¬ 256 ≤ regOffset r := by omega
    simp [accessedReg, Config.accessBits, Config.windowBytes, hr.1, h1, regAt_regOffset]

@[simp] theorem accessedReg_regOffset (r : Reg) : accessedReg (regOffset r) 32 = some r :=
  accessedReg_eq_some.2 ⟨rfl, rfl⟩

/-- What a `HostRead` at a register's own offset answers. -/
theorem readAnswer_regOffset (r : Reg) (s : State) :
    readAnswer (regOffset r) 32 s = match readReg r s with | none => .accessError | some v => .value v := by
  cases h : readReg r s <;> simp [readAnswer, h]

end Sys2Proof.Machine
end

