-- ==== Sys2Proof/Laws/Step.lean ====
section
/-! SUPPORT. What a step can do, said once: one equation for each kind of host action. -/

namespace Sys2Proof.Machine

theorem step_idle {s : State} (h : s.program = []) : step s = .next s := by
  simp [step, nextAction, h]

theorem step_action {s : State} {a : HostAction} {rest : List HostAction} (h : s.program = a :: rest) :
    step s = performAction a { s with program := rest } := by
  simp [step, nextAction, h]

theorem performAction_read (off width : Nat) (s : State) :
    performAction (.read off width) s = .next (answered (readAnswer off width s) s) := rfl

theorem performAction_hardReset (s : State) : performAction .hardReset s = .next (resetBlock s) := rfl

theorem performAction_commandWrite (w : Word) (s : State) :
    performAction (commandWrite w) s = runCommand w (answered .done s) := by
  simp only [performAction, commandWrite, writeAccess, Config.accessBits, accessedReg_regOffset]

theorem writeAccess_refused {off width : Nat} (h : accessedReg off width = none) (v : Word) (s : State) :
    writeAccess off width v s = .next (answered .accessError s) := by
  simp [writeAccess, h]

theorem writeAccess_register {r : Reg} (hr : r ≠ .cmd) (v : Word) (s : State) :
    writeAccess (regOffset r) 32 v s =
      match writeReg r v s with
      | none => .next (answered .accessError s)
      | some t => .next (answered .done t) := by
  cases h : writeReg r v s <;> cases r <;> simp_all [writeAccess]

end Sys2Proof.Machine
end

