-- ==== Sys2Proof/Laws/HostContract.lean ====
section
/-! SUPPORT. Laws of the host's half: its actions are steps of the machine, and a load of pixels fits `IBUF`. -/

namespace Sys2Proof.Machine

@[simp] theorem perform_nil (s : State) : perform [] s = .ok s := rfl

@[simp] theorem perform_read (off width : Nat) (rest : List HostAction) (s : State) :
    perform (.read off width :: rest) s = perform rest (answered (readAnswer off width s) s) := rfl

theorem perform_append (as bs : List HostAction) (s : State) : perform (as ++ bs) s = (perform as s).bind (perform bs) := by
  induction as generalizing s with
  | nil => rfl
  | cons a rest ih =>
    simp only [List.cons_append, perform]
    cases performAction a s with
    | next t => exact ih t
    | fault _ => rfl
    | refused _ => rfl

/-- An outcome with the host's program replaced. -/
def withProgram (p : List HostAction) : Host.Outcome State Fault Refusal → Host.Outcome State Fault Refusal
  | .next t => .next { t with program := p }
  | .fault r => .fault r
  | .refused r => .refused r

theorem exec_withProgram (p : List HostAction) (i : Instr) (s : State) :
    exec i { s with program := p } = withProgram p (exec i s) := by
  cases i with
  | pix src dst =>
    have hok : pixelBytesOk { s with program := p } = pixelBytesOk s := rfl
    have hword := pixelWord_congr (s := { s with program := p }) (t := s) rfl rfl src
    have hsample := pixelSample_congr (s := { s with program := p }) (t := s) rfl rfl rfl rfl
    simp only [exec, execPix, hok, hword, hsample]
    cases pixelBytesOk s <;> cases pastIbuf src s.pixelBytes.toNat <;> rfl
  | lutc src pol => simp only [exec, execLutc]; split <;> rfl
  | luta src => simp only [exec, execLuta]; split <;> rfl
  | _ => rfl

theorem runCommand_withProgram (p : List HostAction) (w : Word) (s : State) :
    runCommand w { s with program := p } = withProgram p (runCommand w s) := by
  simp only [runCommand, runDecoded]
  split
  · rfl
  · cases decode w with
    | illegal why => rfl
    | command i => exact exec_withProgram p i s

theorem writeReg_withProgram (p : List HostAction) (r : Reg) (v : Word) (s : State) :
    writeReg r v { s with program := p } = (writeReg r v s).map fun t => { t with program := p } := by
  cases r with
  | ctrl => simp only [writeReg, writeCtrl]; split <;> rfl
  | status => simp only [writeReg, writeStatus]; split <;> rfl
  | _ => rfl

/-- No action looks at the host's program. -/
theorem performAction_withProgram (p : List HostAction) (a : HostAction) (s : State) :
    performAction a { s with program := p } = withProgram p (performAction a s) := by
  cases a with
  | read off width => rfl
  | hardReset => rfl
  | write off width v =>
    simp only [performAction, writeAccess]
    cases accessedReg off width with
    | none => rfl
    | some r =>
      have hreg : (match writeReg r v { s with program := p } with
          | none => (.next (answered .accessError { s with program := p }) : Host.Outcome State Fault Refusal)
          | some t => .next (answered .done t)) = withProgram p (match writeReg r v s with
          | none => .next (answered .accessError s)
          | some t => .next (answered .done t)) := by
        rw [writeReg_withProgram]
        cases writeReg r v s <;> rfl
      cases r with
      | cmd => exact runCommand_withProgram p v (answered .done s)
      | _ => exact hreg

/-- What the host performs is what the machine does in as many steps with the actions in front of its program. -/
theorem run_of_perform {as : List HostAction} {s t : State} (h : perform as s = .ok t) :
    Sys2Proof.core.run as.length { s with program := as ++ s.program } = .next t := by
  induction as generalizing s with
  | nil => cases h; rfl
  | cons a rest ih =>
    have hs : step { s with program := a :: rest ++ s.program } = withProgram (rest ++ s.program) (performAction a s) := by
      rw [step_action rfl]; exact performAction_withProgram _ a s
    have hp : performAction a s = withProgram s.program (performAction a s) := performAction_withProgram s.program a s
    simp only [perform] at h
    simp only [List.length_cons, Host.Core.run, Sys2Proof.core, hs]
    cases ha : performAction a s with
    | next u =>
      rw [ha] at h hp
      have hu : u.program = s.program := by injection hp with hp; rw [hp]
      have := ih h
      rw [hu] at this
      exact this
    | fault r => rw [ha] at h; cases h
    | refused r => rw [ha] at h; cases h

theorem pixelsPerLoad_pos (pixelBytes wanted : Nat) : 0 < pixelsPerLoad pixelBytes wanted := by
  unfold pixelsPerLoad; omega

/-- The loaded pixels fit `IBUF` (46_downstream_contract.md R163). -/
theorem pixelsPerLoad_fits {pixelBytes : Nat} (wanted : Nat) (h : pixelBytes ≤ 16) :
    pixelsPerLoad pixelBytes wanted * pixelBytes ≤ 16 := by
  unfold pixelsPerLoad Config.ibufBytes
  have hd : 16 / pixelBytes * pixelBytes ≤ 16 := Nat.div_mul_le_self 16 pixelBytes
  rcases Nat.le_total (min wanted (16 / pixelBytes)) 1 with h1 | h1
  · rw [Nat.max_eq_left h1]; omega
  · rw [Nat.max_eq_right h1]
    exact (Nat.mul_le_mul_right _ (Nat.min_le_right _ _)).trans hd

/-- A level without pixels aside, the walk over the levels keeps only positive dimensions (U14). -/
theorem takeLevels_positive {tag : Tag} {pixelBytes : Nat} {dims : List (Nat × Nat)} {input : List Byte} {levels : List Level}
    (h : takeLevels tag pixelBytes dims input = .ok levels) : ∀ l ∈ levels, 0 < l.height ∧ 0 < l.width := by
  induction dims generalizing input levels with
  | nil => cases h; simp
  | cons d rest ih =>
    obtain ⟨height, width⟩ := d
    simp only [takeLevels] at h
    split at h
    · cases h
    · split at h
      · cases h
      · rename_i hz
        split at h
        · cases h
        · split at h
          · cases h
          · rename_i ls hr
            cases h
            intro l hl
            rcases List.mem_cons.1 hl with rfl | hl
            · exact ⟨by simp only; omega, by simp only; omega⟩
            · exact ih hr l hl

end Sys2Proof.Machine
end

