-- ==== Sys2Proof/Laws/PerInstr.lean ====
section
/-! SUPPORT. Statements about every command as syntax, one lemma for each constructor. -/

namespace Sys2Proof.Laws.TableRow

/-- The encoder's word of a well-formed command belongs to the command's row of spec/opcode_table.json. -/
def Statement (i : Instr) : Prop := i.wellFormed = true → (opcodeRow i).holds (encode i) = true

theorem nop : Statement .nop := fun _ => by decide
theorem pix (src dst : BitVec 4) : Statement (.pix src dst) := fun _ => by revert src dst; decide
theorem lutc (src : BitVec 4) (pol : Policy) : Statement (.lutc src pol) := fun _ => by
  cases pol <;> (revert src; decide)
theorem luta (src : BitVec 4) : Statement (.luta src) := fun _ => by revert src; decide
theorem dxt1 : Statement .dxt1 := fun _ => by decide
theorem dxt2 : Statement .dxt2 := fun _ => by decide
theorem dxt3 : Statement .dxt3 := fun _ => by decide
theorem dxt4 : Statement .dxt4 := fun _ => by decide
theorem dxt5 : Statement .dxt5 := fun _ => by decide
theorem dx10 : Statement .dx10 := fun _ => by decide
theorem reservedTag0 : Statement .reservedTag0 := fun _ => by decide
theorem reservedTag7 : Statement .reservedTag7 := fun _ => by decide
theorem reservedTag8To15 (tag : BitVec 4) : Statement (.reservedTag8To15 tag) := by
  unfold Statement; revert tag; decide

end Sys2Proof.Laws.TableRow
end

