-- ==== Sys2Proof/Tests/Slice0.lean ====
section
/-! SUPPORT. Tests and witnesses. Expected values come from the spec: the vectors of 95_test_vectors.md (named in each
comment) and the examples of the rules. A witness theorem shows states and operands that meet the hypotheses of the statement
it is named after, clause by clause. -/

namespace Sys2Proof.Tests

open Sys2Proof.Machine

/-! ### Helpers -/

/-- Sixteen bytes of `IBUF`. -/
def bytes (l : List Nat) : Vector Byte 16 := Vector.ofFn fun i => BitVec.ofNat 8 (l.getD i.val 0)

/-- The reset state with bytes in `IBUF` and the `CTRL` fields set. -/
def small (l : List Nat) (pb : Nat) (ae : Bool) : State :=
  { State.reset with ibuf := bytes l, pixelBytes := BitVec.ofNat 3 pb, alphaEn := ae }

/-- The same with masks. -/
def masked (l : List Nat) (pb : Nat) (r g b a : Word) : State :=
  { small l pb false with maskR := r, maskG := g, maskB := b, maskA := a }

/-- The reset state with a fault latched by `DX10`. -/
def faulted : State := { State.reset with fault := true, fcode := 2#4, fcmd := 0x16#32 }

/-- The reset state with one host action to perform. -/
def doing (a : HostAction) : State := { State.reset with program := [a] }

/-- The state an outcome gives, none where it stops. -/
def nextOf (o : Host.Outcome State Fault Refusal) : Option State :=
  match o with
  | .next t => some t
  | .fault _ => none
  | .refused _ => none

/-- One command on a state, through the port: the host writes the word to `CMD`. -/
def issue (w : Nat) (s : State) : Option State := nextOf (step (s.withFetchWord 32 w))

def pixelBytesOfSpec : List Nat :=
  [0x10, 0x20, 0x30, 0x40, 0x1F, 0xF8, 0xE0, 0x07, 0x55, 0xAA, 0xFF, 0x00, 0x80, 0x7F, 0x01, 0xFE]

/-! ### Well-formedness: the ill-formed term its one check refuses -/

theorem test_wellFormed_refuses_small_tag : (Instr.reservedTag8To15 7#4).wellFormed = false := by decide
theorem test_wellFormed_accepts_row : (Instr.reservedTag8To15 8#4).wellFormed = true := by decide

/-! ### Decoding: words written out bit by bit from 30_encoding.md R73, R77 (V-DEC-1 to V-DEC-22) -/

theorem test_decode_nop : decode 0b00000000000000000000000000000000#32 = .command .nop := by decide
theorem test_decode_pix : decode 0b00000000000000001111001100000001#32 = .command (.pix 3#4 15#4) := by decide
theorem test_decode_lutc_four : decode 0b00000000000000000000100000000010#32 = .command (.lutc 8#4 .four) := by decide
theorem test_decode_lutc_dxt1 : decode 0b00000000000000010000110000000010#32 = .command (.lutc 12#4 .dxt1) := by decide
theorem test_decode_luta : decode 0b00000000000000000000111000000011#32 = .command (.luta 14#4) := by decide
theorem test_decode_dxt1 : decode 0b00000000000000000000000000010001#32 = .command .dxt1 := by decide
theorem test_decode_dxt2 : decode 0b00000000000000000000000000010010#32 = .command .dxt2 := by decide
theorem test_decode_dxt3 : decode 0b00000000000000000000000000010011#32 = .command .dxt3 := by decide
theorem test_decode_dxt4 : decode 0b00000000000000000000000000010100#32 = .command .dxt4 := by decide
theorem test_decode_dxt5 : decode 0b00000000000000000000000000010101#32 = .command .dxt5 := by decide
theorem test_decode_dx10 : decode 0b00000000000000000000000000010110#32 = .command .dx10 := by decide
theorem test_decode_reservedTag0 : decode 0b00000000000000000000000000010000#32 = .command .reservedTag0 := by decide
theorem test_decode_reservedTag7 : decode 0b00000000000000000000000000010111#32 = .command .reservedTag7 := by decide
theorem test_decode_reservedTag8To15 : decode 0b00000000000000000000000000011111#32 = .command (.reservedTag8To15 15#4) := by
  decide
theorem test_decode_unknown_opcodes :
    decode 0x04#32 = .illegal .unknownOpcode ∧ decode 0x0F#32 = .illegal .unknownOpcode ∧
      decode 0x20#32 = .illegal .unknownOpcode ∧ decode 0xFFFFFFFF#32 = .illegal .unknownOpcode := by decide
theorem test_decode_stray_bits :
    decode 0x00000100#32 = .illegal .strayBits ∧ decode 0x00010001#32 = .illegal .strayBits ∧
      decode 0x00001002#32 = .illegal .strayBits ∧ decode 0x00020002#32 = .illegal .strayBits ∧
      decode 0x00001003#32 = .illegal .strayBits ∧ decode 0x80000011#32 = .illegal .strayBits ∧
      decode 0x00000116#32 = .illegal .strayBits := by decide
theorem test_decodeTableWord : decodeTableWord 32 0x11 = some .dxt1 ∧ decodeTableWord 32 0x111 = none := by decide

/-! ### Commands -/

/-- V-DEC-1. -/
theorem test_nop : issue 0 (small [1] 4 true) = some { small [1] 4 true with answers := [.done] } := by decide

/-- V-PIX-4: `pix 8, 5`. -/
theorem test_pix : (issue 0x5801 (masked pixelBytesOfSpec 2 0x7C00#32 0x3E0#32 0x1F#32 0x8000#32)).map (·.obuf[5]) =
    some 0xFFAC9452#32 := by decide

/-- V-PIX-20: two causes, the byte count wins. -/
theorem test_pix_fault : (issue 0x0F01 (small [] 7 false)).map (fun t => (statusWord t, t.fcmd)) =
    some (0x41#32, 0x0F01#32) := by decide

/-- R90, R95 vectors: a 32-bit mask, a mask with a hole. -/
theorem test_lane : lane 0x80000000#32 0xFFFFFFFF#32 = 127#8 ∧ lane 0x55#32 0x55#32 = 165#8 := by decide

/-- V-LUTC-16: `lutc 12, dxt1`, `c0 <= c1`, flag on. -/
theorem test_lutc : (issue 0x10C02 (small [0, 0, 0, 0, 0, 0, 0, 0, 0, 0, 0, 0, 0x34, 0x12, 0xCD, 0xAB] 0 true)).map (·.clut) =
    some #v[0xFFA44410#32, 0xFF6A79AC#32, 0xFF905544#32, 0x00000000#32] := by decide

/-- V-LUTC-16 at `P_S2LE = AVERAGE`. -/
theorem test_lutc_average : (colourLUT .average 0x1234#16 0xABCD#16 .dxt1 true)[2] = 0xFF875E5E#32 := by decide

/-- V-LUTA-4 and V-LUTA-5. -/
theorem test_luta : (issue 0x0003 (small [200, 50] 0 false)).map (·.alut) = some #v[200#8, 50, 178, 157, 135, 114, 92, 71] ∧
    (issue 0x0103 (small [0, 10, 20] 0 false)).map (·.alut) = some #v[10#8, 20, 12, 14, 16, 18, 0, 255] := by decide

/-- V-DXT1-B1. -/
theorem test_dxt1 : (issue 0x11 (small [0x1F, 0x00, 0x00, 0xF8, 0x1B, 0x00, 0x55, 0xE4] 0 true)).map (·.obuf) =
    some #v[0xFFFF0000#32, 0xFF0000FF, 0xFFAA0055, 0x00000000, 0xFF0000FF, 0xFF0000FF, 0xFF0000FF, 0xFF0000FF,
      0xFFFF0000, 0xFFFF0000, 0xFFFF0000, 0xFFFF0000, 0x00000000, 0xFFAA0055, 0xFF0000FF, 0xFFFF0000] := by decide

/-- V-DXT3-C, as `dxt2`. -/
theorem test_dxt2 : (issue 0x12 (small [0xFF, 0x00, 0x0F, 0xF0, 0xA5, 0x5A, 0x00, 0xFF, 0x34, 0x12, 0xCD, 0xAB, 0x39, 0xC6,
      0x93, 0x6C] 0 false)).map (·.obuf) =
    some #v[0x00A44410#32, 0x007D6778, 0xFF905544, 0xFF6A79AC, 0x557D6778, 0xAAA44410, 0xAA6A79AC, 0x55905544,
      0xFF905544, 0x006A79AC, 0x00A44410, 0xFF7D6778, 0xFF6A79AC, 0xFF905544, 0x007D6778, 0x00A44410] := by decide

/-- V-DXT3-A, as `dxt3`: the first and the last emission row. -/
theorem test_dxt3 : (issue 0x13 (small [0x10, 0x32, 0x54, 0x76, 0x98, 0xBA, 0xDC, 0xFE, 0x00, 0xF8, 0x1F, 0x00, 0x1B, 0x00,
      0x55, 0xE4] 0 false)).map (fun t => [t.obuf[0], t.obuf[1], t.obuf[14], t.obuf[15]]) =
    some [0xCC0000FF#32, 0xDDFF0000#32, 0x22FF0000#32, 0x330000FF#32] := by decide

/-- V-DXT5-C, as `dxt4`. -/
theorem test_dxt4 : (issue 0x14 (small [0xC8, 0x32, 0x77, 0x39, 0x05, 0x59, 0x0F, 0xD1, 0x34, 0x12, 0xCD, 0xAB, 0x39, 0xC6,
      0x93, 0x6C] 0 false)).map (·.obuf) =
    some #v[0xC8A44410#32, 0xB27D6778, 0x87905544, 0x5C6A79AC, 0x327D6778, 0x9DA44410, 0x726A79AC, 0x47905544,
      0x9D905544, 0xB26A79AC, 0x32A44410, 0xC87D6778, 0x476A79AC, 0x5C905544, 0x727D6778, 0x87A44410] := by decide

/-- V-DXT5-B, as `dxt5`: the tables and one sample of each row. -/
theorem test_dxt5 : (issue 0x15 (small [0x00, 0xFF, 0x88, 0xC6, 0xFA, 0x88, 0xC6, 0xFA, 0x1F, 0x00, 0x00, 0xF8, 0x1B, 0x00,
      0x55, 0xE4] 0 false)).map (fun t => (t.alut, t.clut, [t.obuf[0], t.obuf[5], t.obuf[10], t.obuf[15]])) =
    some (#v[0#8, 255, 51, 102, 153, 204, 0, 255], #v[0xFFFF0000#32, 0xFF0000FF, 0xFFAA0055, 0xFF5500AA],
      [0x99FF0000#32, 0xFF0000FF#32, 0x00FF0000#32, 0x66FF0000#32]) := by decide

/-- V-DEC-15. -/
theorem test_dx10 : (issue 0x16 State.reset).map (fun t => (statusWord t, t.fcmd)) = some (0x21#32, 0x16#32) := by decide

/-- V-DEC-12, V-DEC-16, V-DEC-17. -/
theorem test_reservedTag0 : (issue 0x10 State.reset).map (fun t => (statusWord t, t.fcmd)) = some (0x21#32, 0x10#32) := by
  decide
theorem test_reservedTag7 : (issue 0x17 State.reset).map (fun t => (statusWord t, t.fcmd)) = some (0x21#32, 0x17#32) := by
  decide
theorem test_reservedTag8To15 : (issue 0x1F State.reset).map (fun t => (statusWord t, t.fcmd)) = some (0x21#32, 0x1F#32) := by
  decide

/-- V-DEC-19: the format check comes first. -/
theorem test_illegal : (issue 0x116 State.reset).map (fun t => (statusWord t, t.fcmd)) = some (0x11#32, 0x116#32) := by decide

/-- V-DEC-23: the gate. -/
theorem test_gate : issue 0x15 faulted = some { faulted with answers := [.done] } := by decide

/-! ### The register window (V-ACC-1 to V-ACC-10) -/

theorem test_read_id : readAnswer 0x00 32 State.reset = .value 0x44445337#32 := by decide
theorem test_refused_reads : ∀ off ∈ [0x0C, 0x14, 0x58, 0x7C, 0xC0, 0xFC, 0x100, 0x31], readAnswer off 32 State.reset = .accessError := by
  decide
theorem test_refused_width : readAnswer 0x20 16 State.reset = .accessError := by decide
theorem test_refused_write : nextOf (step (doing (.write 0x80 32 5#32))) = some { State.reset with answers := [.accessError] } := by
  decide
theorem test_ctrl_reserved_bits :
    (nextOf (step (doing (.write 0x04 32 0x7FFFFFFF#32)))).map (readAnswer 0x04 32) = some (.value 0x00000071#32) := by decide
theorem test_status_no_clear :
    (nextOf (step { faulted with program := [.write 0x08 32 0xFFFFFFFE#32] })).map statusWord = some 0x21#32 := by decide
theorem test_status_clear :
    (nextOf (step { faulted with program := [.write 0x08 32 0x00000001#32] })).map (fun t => (statusWord t, t.fcmd)) =
      some (0#32, 0#32) := by decide
theorem test_ibuf_lanes :
    (nextOf (step (doing (.write 0x34 32 0x44332211#32)))).map (fun t => (ibufByte t 4, ibufByte t 7, readAnswer 0x34 32 t)) =
      some (0x11#8, 0x44#8, .value 0x44332211#32) := by decide

/-- A reset during a run clears the registers; the buffers are left free, so nothing is said of them. -/
theorem test_reset_actions :
    (nextOf (step { faulted with program := [.hardReset], maskR := 5#32 })).map (fun t => (statusWord t, t.maskR)) = some (0#32, 0#32) ∧
    (nextOf (step { faulted with program := [srst], maskR := 5#32 })).map (fun t => (statusWord t, t.maskR)) = some (0#32, 0#32) := by
  decide

/-! ### The host's half -/

/-- P5: a 5 x 2 DXT1 image, the two decoded blocks given; the image of 95_test_vectors.md (source property S6). -/
theorem test_reassemble_p5 :
    reassemble 5 2 ((nextOf (exec .dxt1 (small [0x00, 0xF8, 0x1F, 0x00, 0xE4, 0x1B] 0 false))).elim [] (fun t => t.obuf.toList) ++
      (nextOf (exec .dxt1 (small [0xE0, 0x07, 0x00, 0x00, 0x00, 0x55, 0xAA, 0xFF] 0 false))).elim [] (fun t => t.obuf.toList)) =
    [0xFF0000FF#32, 0xFFFF0000#32, 0xFF5500AA#32, 0xFFAA0055#32, 0xFF00FF00#32,
      0xFFAA0055#32, 0xFF5500AA#32, 0xFFFF0000#32, 0xFF0000FF#32, 0xFF000000#32] := by decide

/-- S3: mip dimensions of (10, 5) with 3 levels and with a stored count of 0. -/
theorem test_levelDims : levelDims 10 5 3 = [(10, 5), (5, 2), (2, 1)] ∧ levelDims 10 5 0 = [(10, 5)] := by decide

/-! ### Witnesses: the hypotheses of each statement can be met -/

theorem test_witness_DecodeOfEncode : (Instr.reservedTag8To15 8#4).wellFormed = true ∧ (Instr.reservedTag8To15 15#4).wellFormed = true ∧
    (Instr.pix 15#4 15#4).wellFormed = true := by decide

theorem test_witness_EncodeOfDecode : decode 0x0000FF01#32 = .command (.pix 15#4 15#4) := by decide

theorem test_witness_DecoderAgreesWithOpcodeTable :
    decode 0x1F#32 = .command (.reservedTag8To15 15#4) ∧ (opcodeRow (.reservedTag8To15 0#4)).holds 0x18#32 = true := by decide

theorem test_witness_IllegalWordsRaiseIllegalCommand :
    decode 0x04#32 = .illegal .unknownOpcode ∧ State.reset.fault = false ∧ decode 0x11#32 = .command .dxt1 := by decide

theorem test_witness_LegalWordsCounted : State.reset.fault = false := by decide

theorem test_witness_StepRunsDecodedCommand :
    (doing (.write 0x0C 32 0x15#32)).program = .write 0x0C 32 0x15#32 :: [] ∧ (doing (.write 0x0C 32 0x15#32)).fault = false ∧
      decode 0x15#32 = .command .dxt5 ∧ Instr.dxt5.wellFormed = true := by decide

theorem test_witness_GateDropsCommandsWhileFaulted :
    (({ faulted with program := [.write 0x0C 32 0x15#32] } : State).fault = true) ∧
      (doing (.write 0x0C 32 0x15#32)).fault = false ∧ decode 0x15#32 = .command .dxt5 ∧
      (doing (.write 0x0C 32 0x20#32)).fault = false ∧ decode 0x20#32 = .illegal .unknownOpcode := by decide

theorem test_witness_StepConsumesOneAction :
    (∃ t, step (doing .hardReset) = .next t) ∧ ∃ t, step (doing (.read 0x08 32)) = .next t := ⟨⟨_, rfl⟩, ⟨_, rfl⟩⟩

theorem latchConsistent_faulted : LatchConsistent faulted :=
  ⟨fun h => by simp [faulted] at h, fun _ => ⟨.unsupportedCompression, by decide, by decide⟩⟩

theorem test_witness_StepKeepsLatchConsistent :
    LatchConsistent faulted ∧ (∃ t, step faulted = .next t) ∧ LatchConsistent State.reset ∧ ∃ t, step State.reset = .next t :=
  ⟨latchConsistent_faulted, ⟨_, rfl⟩, ⟨fun _ => by decide, fun h => by simp [State.reset, State.launch] at h⟩, ⟨_, rfl⟩⟩

theorem test_witness_LatchConsistentAtLaunch : LatchConsistent faulted := latchConsistent_faulted

theorem test_witness_FaultingCommandWritesOnlyTheLatch :
    (nextOf (runCommand 0x16#32 State.reset)).map (·.fault) = some true ∧
      (nextOf (runCommand 0x11#32 State.reset)).map (·.fault) = some false := by decide

/-- One word for each code: 1, 2, 3 (from each command that can raise it), 4, and none. -/
theorem test_witness_FaultCauseAndPriority :
    (nextOf (runCommand 0x04#32 State.reset)).map (·.fcode) = some 1#4 ∧
      (nextOf (runCommand 0x18#32 State.reset)).map (·.fcode) = some 2#4 ∧
      (nextOf (runCommand 0x0F01#32 (small [] 2 false))).map (·.fcode) = some 3#4 ∧
      (nextOf (runCommand 0x0D02#32 State.reset)).map (·.fcode) = some 3#4 ∧
      (nextOf (runCommand 0x0F03#32 State.reset)).map (·.fcode) = some 3#4 ∧
      (nextOf (runCommand 0x0001#32 State.reset)).map (·.fcode) = some 4#4 ∧
      (nextOf (runCommand 0x0E01#32 (small [] 2 false))).map (·.fault) = some false := by decide

theorem test_witness_OnlyClearingActionsEndAFault :
    (nextOf (step { faulted with program := [.write 0x08 32 1#32] })).map (·.fault) = some false ∧
      (nextOf (step { faulted with program := [.write 0x04 32 0x80000000#32] })).map (·.fault) = some false ∧
      (nextOf (step { faulted with program := [.hardReset] })).map (·.fault) = some false ∧
      (nextOf (step { faulted with program := [.write 0x30 32 1#32] })).map (·.fault) = some true := by decide

theorem test_witness_RunsGoWrongInTwoWays :
    ¬ WentWrong (doing (.write 0x0C 32 0x16#32)) ∧ (∃ t, step (doing (.write 0x0C 32 0x16#32)) = .next t ∧ WentWrong t) ∧
      ¬ WentWrong (doing (.read 0x0C 32)) ∧ ∃ t, step (doing (.read 0x0C 32)) = .next t ∧ WentWrong t :=
  ⟨by simp [WentWrong, doing, State.reset, State.launch], ⟨_, rfl, .inl rfl⟩,
    by simp [WentWrong, doing, State.reset, State.launch], ⟨_, rfl, .inr (.head _)⟩⟩

theorem test_witness_ResetsHaveOneEffect : (0x80000000#32 : Word).getLsbD 31 = true ∧ (0xFFFFFFFF#32 : Word).getLsbD 31 = true := by
  decide

theorem test_witness_LaunchRegisterValues : (State.launch zeroBuffers .average [.hardReset]).s2le = .average := by decide

theorem test_witness_ReadsHaveNoSideEffect : (doing (.read 0xBC 32)).program = .read 0xBC 32 :: [] ∧
    (doing (.read 0x0C 16)).program = .read 0x0C 16 :: [] := by decide

/-- The edges of the readable and the writable offsets, and of each hole between them. -/
theorem test_witness_RefusedAccesses :
    (∀ off ∈ [0x00, 0x08, 0x10, 0x20, 0x54, 0x80, 0xBC], readAnswer off 32 State.reset ≠ .accessError) ∧
      (∀ off ∈ [0x0C, 0x14, 0x1C, 0x58, 0x7C, 0xC0, 0xFC, 0x100], readAnswer off 32 State.reset = .accessError) ∧
      (∀ off ∈ [0x04, 0x0C, 0x20, 0x3C], (nextOf (step (doing (.write off 32 0#32)))).map (·.answers) = some [.done]) ∧
      (∀ off ∈ [0x00, 0x10, 0x1C, 0x40, 0x54, 0x80], (nextOf (step (doing (.write off 32 0#32)))).map (·.answers) =
        some [.accessError]) := by decide

theorem test_witness_CtrlWriteAndRead : (doing (.write 0x04 32 0x7FFFFFFF#32)).program = .write 0x04 32 0x7FFFFFFF#32 :: [] ∧
    (0x7FFFFFFF#32 : Word).getLsbD 31 = false ∧ (0xFFFFFFFF#32 : Word).getLsbD 31 = true := by decide

theorem test_witness_StatusReadAndWriteOneToClear :
    (doing (.write 0x08 32 1#32)).program = .write 0x08 32 1#32 :: [] ∧ (1#32 : Word).getLsbD 0 = true ∧
      (2#32 : Word).getLsbD 0 = false ∧ (doing (.write 0x0C 32 0x16#32)).fault = false ∧
      (nextOf (step (doing (.write 0x0C 32 0x16#32)))).map (·.fault) = some true := by decide

theorem test_witness_MaskRegistersStoreWholeWords :
    ∀ off ∈ [0x20, 0x24, 0x28, 0x2C], (doing (.write off 32 0xFFFFFFFF#32)).program = .write off 32 0xFFFFFFFF#32 :: [] := by
  decide

theorem test_witness_IbufWordsAreLittleEndian :
    (doing (.write (0x30 + 4 * 0) 32 1#32)).program = .write (0x30 + 4 * 0) 32 1#32 :: [] ∧
      (doing (.write (0x30 + 4 * 3) 32 1#32)).program = .write (0x30 + 4 * 3) 32 1#32 :: [] := by decide

/-- Each buffer is changed by one of its writers. -/
theorem test_witness_BuffersChangeOnlyByTheirWriters :
    (nextOf (step (doing (.write 0x30 32 1#32)))).map (fun t => decide (t.ibuf ≠ State.reset.ibuf)) = some true ∧
      (nextOf (step { small [0xFF] 0 false with program := [.write 0x0C 32 0x15#32] })).map (fun t => decide (t.obuf ≠ State.reset.obuf ∧
        t.clut ≠ State.reset.clut ∧ t.alut ≠ State.reset.alut)) = some true := by decide

theorem test_witness_CommandFrame : ∀ i ∈ [Instr.nop, .pix 0#4 15#4, .lutc 15#4 .four, .luta 0#4, .dxt1, .dxt2, .dxt3, .dxt4, .dxt5,
    .dx10, .reservedTag0, .reservedTag7, .reservedTag8To15 8#4], (nextOf (exec i State.reset)).isSome = true := by decide

/-- Two states that agree on what commands read and differ in `OBUF`, `CLUT`, `ALUT` and the program. -/
theorem test_witness_CommandsArePureFunctions :
    let s := small [1, 2, 3] 2 true
    let s' := { small [1, 2, 3] 2 true with
      obuf := Vector.replicate 16 7#32, clut := Vector.replicate 4 7#32, alut := Vector.replicate 8 7#8, program := [.hardReset] }
    s ≠ s' ∧ s.ibuf = s'.ibuf ∧ s.alphaEn = s'.alphaEn ∧ s.pixelBytes = s'.pixelBytes ∧ s.maskR = s'.maskR ∧ s.s2le = s'.s2le := by
  decide

theorem test_witness_RepeatedCommandChangesNothing : (nextOf (runCommand 0x15#32 State.reset)).isSome = true ∧
    (nextOf (runCommand 0x16#32 State.reset)).isSome = true := by decide

theorem test_witness_NopDoesNothing :
    (0x80000000#32 : Word).toNat % 256 = 0 ∧ (0x80000000#32 : Word) ≠ 0#32 ∧ (0x100#32 : Word).toNat % 256 = 0 := by decide

theorem test_witness_UnsupportedTagsFault :
    8 ≤ (8#4 : BitVec 4).toNat ∧ 8 ≤ (15#4 : BitVec 4).toNat ∧
      (0x116#32 : Word).toNat % 256 = 0x16 ∧ (0x116#32 : Word).toNat / 2 ^ 8 ≠ 0 ∧
      (0x8000001F#32 : Word).toNat % 256 = 0x1F ∧ (0x8000001F#32 : Word).toNat / 2 ^ 8 ≠ 0 ∧
      (nextOf (exec .dx10 State.reset)).isSome = true := by decide

theorem test_witness_TrailingZerosAndPopulation : (0x80000000#32 : Word) ≠ 0#32 ∧ ctz32 0x80000000#32 = 31 ∧ ctz32 0x1#32 = 0 := by
  decide

theorem test_witness_LaneValue : (5#32 : Word) ≠ 0#32 ∧ lane 0x5#32 0x5#32 = 169#8 := by decide

theorem test_witness_ContiguousMaskRescalesItsField : 1 ≤ 1 ∧ 31 + 1 ≤ 32 ∧ 1 ≤ 32 ∧ 0 + 32 ≤ 32 ∧ 24 + 8 ≤ 32 ∧
    lane 0x40302010#32 (BitVec.ofNat 32 ((2 ^ 8 - 1) * 2 ^ 16)) = 0x30#8 := by decide

theorem test_witness_MaskAbovePixelGivesZero : let s := small pixelBytesOfSpec 2 false
    1 ≤ s.pixelBytes.toNat ∧ s.pixelBytes.toNat ≤ 4 ∧ (0x00FF0000#32 : Word).toNat % 2 ^ (8 * s.pixelBytes.toNat) = 0 := by decide

/-- At both ends of the byte count, the range ending exactly at `IBUF[15]`. -/
theorem test_witness_PixWritesOneSample :
    (1 ≤ (small [] 1 false).pixelBytes.toNat ∧ (15#4 : BitVec 4).toNat + (small [] 1 false).pixelBytes.toNat ≤ 16) ∧
      ((small [] 4 false).pixelBytes.toNat ≤ 4 ∧ (12#4 : BitVec 4).toNat + (small [] 4 false).pixelBytes.toNat ≤ 16) := by decide

theorem test_witness_PixFaults :
    (small [] 0 false).pixelBytes.toNat = 0 ∧ 4 < (small [] 5 false).pixelBytes.toNat ∧
      (1 ≤ (small [] 4 false).pixelBytes.toNat ∧ (small [] 4 false).pixelBytes.toNat ≤ 4 ∧
        16 < (13#4 : BitVec 4).toNat + (small [] 4 false).pixelBytes.toNat) := by decide

/-- The premises of R204 for the example of R91. -/
theorem test_witness_LaunchPremisesDetermineThePixel :
    let s := masked pixelBytesOfSpec 4 0x00FF0000#32 0x0000FF00#32 0x000000FF#32 0xFF000000#32
    NoFault s ∧ Configured 4#3 0x00FF0000#32 0x0000FF00#32 0x000000FF#32 0xFF000000#32 false s ∧
      Loaded [0x10#8, 0x20#8, 0x30#8, 0x40#8] s ∧
      (0x40302010#32 : Word).toNat = [0x10#8, 0x20#8, 0x30#8, 0x40#8].foldr (fun b acc => b.toNat + 256 * acc) 0 := by
  refine ⟨rfl, ⟨by decide, by decide, by decide, by decide, by decide, by decide⟩, ?_, by decide⟩
  intro k h
  have h4 : k < 4 := h
  rcases (by omega : k = 0 ∨ k = 1 ∨ k = 2 ∨ k = 3) with rfl | rfl | rfl | rfl <;> exact ⟨by omega, rfl⟩

theorem test_witness_LanesAreIndependent :
    let s := masked pixelBytesOfSpec 4 0xFF#32 0xFF#32 0xFF#32 0xFF#32
    let s' := masked pixelBytesOfSpec 4 0xFF#32 0#32 0xF0#32 0xFF00#32
    1 ≤ s.pixelBytes.toNat ∧ s.pixelBytes.toNat ≤ 4 ∧ (0#4 : BitVec 4).toNat + s.pixelBytes.toNat ≤ 16 ∧
      s.pixelBytes = s'.pixelBytes ∧ s.ibuf = s'.ibuf ∧ s.maskR = s'.maskR ∧ s.maskG ≠ s'.maskG ∧
      ((nextOf (exec (.pix 0#4 3#4) s)).bind (·.obuf[(3#4 : BitVec 4).toNat]?)).isSome = true ∧
      ((nextOf (exec (.pix 0#4 3#4) s')).bind (·.obuf[(3#4 : BitVec 4).toNat]?)).isSome = true := by decide

/-- Both sides of the comparison, equal endpoints, both flags (41_lut.md R111). -/
theorem test_witness_ColourTableEntries :
    (colourLUT .thirds 0x8410#16 0x8410#16 .dxt1 true)[3].toNat = 0 ∧
      (colourLUT .thirds 0x8410#16 0x8410#16 .dxt1 false)[3] = 0xFF000000#32 ∧
      (colourLUT .average 0x001F#16 0xF800#16 .dxt1 true)[2] = 0xFF7F007F#32 ∧
      (colourLUT .average 0x001F#16 0xF800#16 .four true)[2] = 0xFFAA0055#32 := by decide

theorem test_witness_ColourTableProperties : (0x8410#16 : BitVec 16).toNat ≤ (0x8410#16 : BitVec 16).toNat ∧
    (colourLUT .thirds 0x8410#16 0x8410#16 .dxt1 true)[3] ≠ (colourLUT .thirds 0x8410#16 0x8410#16 .dxt1 false)[3] := by decide

theorem test_witness_LutcWritesColourTable : (12#4 : BitVec 4).toNat ≤ 12 ∧ 12 < (13#4 : BitVec 4).toNat := by decide

theorem test_witness_AlphaTableEntries : (0#8 : Byte).toNat < (1#8 : Byte).toNat ∧ (100#8 : Byte).toNat ≤ (100#8 : Byte).toNat := by
  decide

theorem test_witness_AlphaTableOrder : (254#8 : Byte).toNat < (255#8 : Byte).toNat ∧ (255#8 : Byte).toNat ≤ (255#8 : Byte).toNat := by
  decide

theorem test_witness_LutaWritesAlphaTable : (14#4 : BitVec 4).toNat ≤ 14 ∧ (issue 0x0F03 State.reset).map statusWord = some 0x31#32 := by
  decide

/-- V-DXT1-C: equal endpoints, selector 3 in the last emission row, with the flag on and off; and a block with `c0 > c1`. -/
theorem test_witness_Dxt1AlphaRule :
    (nextOf (exec .dxt1 (small [0x10, 0x84, 0x10, 0x84, 0xFF, 0xAA, 0x55, 0x00] 0 true))).map (·.obuf[12]) = some 0#32 ∧
      (nextOf (exec .dxt1 (small [0x10, 0x84, 0x10, 0x84, 0xFF, 0xAA, 0x55, 0x00] 0 false))).map (·.obuf[12]) =
        some 0xFF000000#32 ∧
      (ibufByte (small [0x00, 0xF8, 0x1F, 0x00] 0 true) 3).toNat < (ibufByte (small [0x00, 0xF8, 0x1F, 0x00] 0 true) 1).toNat := by
  decide

theorem test_witness_Dxt1IgnoresUpperHalf :
    let s := small [1, 2, 3, 4, 5, 6, 7, 8] 0 true
    let s' := small [1, 2, 3, 4, 5, 6, 7, 8, 9] 0 true
    s ≠ s' ∧ (∀ k : Fin 8, ibufByte s k.val = ibufByte s' k.val) ∧ (nextOf (exec .dxt1 s)).isSome = true ∧
      (nextOf (exec .dxt1 s')).isSome = true := by decide

theorem test_witness_Dxt23DecodesBlock : (Instr.dxt2 = .dxt2 ∨ Instr.dxt2 = .dxt3) ∧ (Instr.dxt3 = .dxt2 ∨ Instr.dxt3 = .dxt3) := by decide

theorem test_witness_Dxt45DecodesBlock : (Instr.dxt4 = .dxt4 ∨ Instr.dxt4 = .dxt5) ∧ (Instr.dxt5 = .dxt4 ∨ Instr.dxt5 = .dxt5) := by decide

/-- A width that is no multiple of 4, and one pixel. -/
theorem test_witness_ReassemblyMatchesClosedForm :
    0 < 5 ∧ 0 < 2 ∧ (List.replicate 32 0#32).length = roundUp4 2 * roundUp4 5 ∧
      (List.replicate 16 0#32).length = roundUp4 1 * roundUp4 1 := by
  decide

theorem test_witness_LevelSpansAreWholeBlocks : levelSpan .dxt5 0 1 5 = some 32 ∧ levelSpan .dxt1 0 2 5 = some 16 := by decide

/-- Whether a host-side result is a success. -/
def succeeds {α : Type} (r : Except HostError α) : Bool :=
  match r with
  | .ok _ => true
  | .error _ => false

/-- The error of a host-side result. -/
def errorOf {α : Type} (r : Except HostError α) : Option HostError :=
  match r with
  | .ok _ => none
  | .error e => some e

theorem test_witness_LevelsTakeTheInputInOrder :
    succeeds (takeLevels .dxt1 0 (levelDims 4 4 2) (List.replicate 16 1#8)) = true ∧
      errorOf (takeLevels .dxt1 0 (levelDims 4 4 2) (List.replicate 15 1#8)) = some .bufferTooShort ∧
      unitCommand .dx10 = none := by decide

/-- U14: a level whose width is 0 is refused. -/
theorem test_takeLevels_refuses_size_zero :
    errorOf (takeLevels .dxt1 0 (levelDims 2 1 2) (List.replicate 16 1#8)) = some .zeroDimension := by decide

/-- An uncompressed image of one pixel. -/
def onePixel (pixelBytes : BitVec 3) : ImageHeader :=
  { height := 1, width := 1, mips := 0, tag := .none, alphaEn := false, pixelBytes := pixelBytes,
    maskR := 0x00FF0000#32, maskG := 0x0000FF00#32, maskB := 0x000000FF#32, maskA := 0xFF000000#32 }

/-- The bytes of the example of 40_pix.md R91. -/
def onePixelBytes : List Byte := [0x10#8, 0x20#8, 0x30#8, 0x40#8]

/-- The pixels of the first image of a decode. -/
def firstPixels (r : Except HostError (List Image × State)) : Option (List Word) :=
  match r with
  | .ok (m :: _, _) => some m.pixels
  | .ok ([], _) => none
  | .error _ => none

/-- The example of R91 through the whole decode. -/
theorem test_witness_DecodeReturnsWholeSequence :
    firstPixels (decodeImages 1 (onePixel 4#3) onePixelBytes State.reset) = some [0x40102030#32] := by decide

theorem test_witness_DecodeSucceedsOrFailsWhole :
    State.reset.fault = false ∧ unitCommand (onePixel 4#3).tag ≠ none ∧ (∀ d ∈ levelDims 1 1 0, 0 < d.1 ∧ 0 < d.2) ∧
      ((levelDims 1 1 0).map fun d => (levelSpan .none 4 d.1 d.2).getD 0).sum ≤ onePixelBytes.length ∧
      errorOf (decodeImages 1 (onePixel 0#3) onePixelBytes State.reset) = some (.blockFault 0x41#32) ∧
      faulted.fault = true ∧ unitCommand .dx10 = none := by decide

theorem test_witness_UncompressedLevelPixels :
    let s := masked [] 4 0x00FF0000#32 0x0000FF00#32 0x000000FF#32 0xFF000000#32
    (s.pixelBytes = 4#3 ∧ s.maskR = 0x00FF0000#32 ∧ s.maskG = 0x0000FF00#32 ∧ s.maskB = 0x000000FF#32 ∧
      s.maskA = 0xFF000000#32 ∧ s.alphaEn = false ∧ s.fault = false) ∧
      onePixelBytes.length = 1 * 1 * (4#3 : BitVec 3).toNat := by decide

/-- A 5 by 2 level of DXT1, the size of program P5 of 95_test_vectors.md. -/
theorem test_witness_CompressedLevelPixels :
    unitCommand .dxt1 = some .dxt1 ∧ State.reset.fault = false ∧
      (List.replicate 16 0#8).length = blockBytes .dxt1 * (roundUp4 2 / 4 * (roundUp4 5 / 4)) ∧
      (∀ k : Fin 8, (List.replicate 16 0#8)[blockBytes .dxt1 * (1 / 4 * (roundUp4 5 / 4) + 4 / 4) + k.val]? =
        some (ibufByte State.reset k.val)) ∧ (nextOf (exec .dxt1 State.reset)).isSome = true := by decide

end Sys2Proof.Tests
end

section
/-! PROOFS. `ctz32` and `popcount32` (00_scope.md R14): the laws of the two mask measures, and the obligation on them. -/

namespace Sys2Proof.Machine

/-- A non-zero mask has a set bit. -/
theorem exists_getLsbD_of_ne_zero {m : Word} (h : m ≠ 0#32) : ∃ i < 32, m.getLsbD i = true := by
  contrapose! h
  exact BitVec.eq_of_getLsbD_eq fun i hi => by simpa using h i hi

/-- For a non-zero mask the search of `ctz32` ends inside the word. -/
theorem ctz32_lt {m : Word} (h : m ≠ 0#32) : ctz32 m < 32 := by
  obtain ⟨i, hi, hbit⟩ := exists_getLsbD_of_ne_zero h
  simpa [ctz32] using List.findIdx_lt_length_of_exists (xs := List.range 32) (p := fun i => m.getLsbD i)
    ⟨i, List.mem_range.2 hi, hbit⟩

theorem getLsbD_ctz32 {m : Word} (h : m ≠ 0#32) : m.getLsbD (ctz32 m) = true := by
  have hfound := List.findIdx_getElem (xs := List.range 32) (p := fun i => m.getLsbD i)
    (w := by simpa [ctz32] using ctz32_lt h)
  rwa [List.getElem_range] at hfound

/-- Holds of every mask: below `ctz32 0 = 32` no bit is set either. -/
theorem getLsbD_of_lt_ctz32 {m : Word} {k : Nat} (hk : k < ctz32 m) : m.getLsbD k = false := by
  simpa using List.not_of_lt_findIdx hk

theorem popcount32_eq_count (m : Word) : popcount32 m = Nat.count (fun i => m.getLsbD i = true) 32 := by
  simp [popcount32, Nat.count]

theorem popcount32_le (m : Word) : popcount32 m ≤ 32 :=
  popcount32_eq_count m ▸ Nat.count_le _

theorem popcount32_eq_card (m : Word) :
    popcount32 m = (Finset.univ.filter fun k : Fin 32 => m.getLsbD k.val = true).card := by
  rw [popcount32_eq_count, Nat.count_eq_card_filter_range, Finset.card_filter, Finset.card_filter, Finset.sum_range]

/-- Settles O34: the search finds the lowest set bit, and counting over the list of positions is the cardinality of the
set of set positions. -/
theorem trailingZerosAndPopulation : Obligations.TrailingZerosAndPopulation := fun m =>
  ⟨fun h => ⟨Nat.le_of_lt_succ (ctz32_lt h), getLsbD_ctz32 h, fun _ => getLsbD_of_lt_ctz32⟩,
    popcount32_le m, popcount32_eq_card m⟩

end Sys2Proof.Machine
end

section
/-! PROOFS. What one command and one host action can do, said once: every command's effect with the faults it can take, the
word a decoded command came from, and the kinds of host action a step performs. -/

namespace Sys2Proof.Machine

/-- The causes a command can fault for: `possibleFaults` said of the command its word decodes to. -/
def commandFaults : Instr → List FaultCode
  | .pix _ _ => [.unsupportedPixelBytes, .ibufRange]
  | .lutc src _ => if pastIbuf src 4 then [.ibufRange] else []
  | .luta src => if pastIbuf src 2 then [.ibufRange] else []
  | .dx10 | .reservedTag0 | .reservedTag7 | .reservedTag8To15 _ => [.unsupportedCompression]
  | .nop | .dxt1 | .dxt2 | .dxt3 | .dxt4 | .dxt5 => []

theorem possibleFaults_command {w : Word} {i : Instr} (hd : decode w = .command i) :
    possibleFaults w = commandFaults i := by
  cases i <;> simp only [possibleFaults, hd, commandFaults]

theorem possibleFaults_illegal {w : Word} {why : IllegalWord} (hd : decode w = .illegal why) :
    possibleFaults w = [.illegalCommand] := by
  simp only [possibleFaults, hd]

/-! ### The word of a decoded command (30_encoding.md R73, R80) -/

/-- With bits 31:17 zero a word is its four fields. -/
theorem wordOfFields_fields {w : Word} (hz : zeroOf w = 0#15) :
    wordOfFields (opcOf w) (srcOf w) (dstOf w) (polOf w) = w := by
  apply BitVec.eq_of_toNat_eq
  have hzero : w.toNat / 2 ^ 17 % 2 ^ 15 = 0 := by
    simpa [zeroOf, BitVec.extractLsb'_toNat, Nat.shiftRight_eq_div_pow] using congrArg BitVec.toNat hz
  have := w.isLt
  simp only [wordOfFields, opcOf, srcOf, dstOf, polOf, BitVec.extractLsb'_toNat, Nat.shiftRight_eq_div_pow,
    BitVec.toNat_ofNat]
  omega

/-- A word of format P is its opcode and its two operands. -/
theorem wordOfFields_of_formatPOk {w : Word} (h : formatPOk w = true) :
    wordOfFields (opcOf w) (srcOf w) (dstOf w) 0#1 = w := by
  simp only [formatPOk, Bool.and_eq_true, decide_eq_true_eq] at h
  obtain ⟨hz, hpol⟩ := h
  rw [← hpol, wordOfFields_fields hz]

/-- A word of format C is its opcode, its source and its policy. -/
theorem wordOfFields_of_formatCOk {w : Word} (h : formatCOk w = true) :
    wordOfFields (opcOf w) (srcOf w) 0#4 (polOf w) = w := by
  simp only [formatCOk, Bool.and_eq_true, decide_eq_true_eq] at h
  obtain ⟨hz, hdst⟩ := h
  rw [← hdst, wordOfFields_fields hz]

/-- A word of format S is its opcode and its source. -/
theorem wordOfFields_of_formatSOk {w : Word} (h : formatSOk w = true) :
    wordOfFields (opcOf w) (srcOf w) 0#4 0#1 = w := by
  simp only [formatSOk, Bool.and_eq_true, decide_eq_true_eq] at h
  obtain ⟨hP, hdst⟩ := h
  rw [← hdst, wordOfFields_of_formatPOk hP]

/-- A word of format Z is its opcode. -/
theorem wordZ_of_formatZOk {w : Word} (h : formatZOk w = true) : wordZ (opcOf w) = w := by
  simp only [formatZOk, Bool.and_eq_true, decide_eq_true_eq] at h
  obtain ⟨hS, hsrc⟩ := h
  simpa only [wordZ, hsrc] using wordOfFields_of_formatSOk hS

theorem policyBit_policyOfBit (b : BitVec 1) : policyBit (policyOfBit b) = b := by
  revert b; decide

theorem encode_tagCommand (tag : BitVec 4) : encode (tagCommand tag) = wordZ (0x10#8 + tag.setWidth 8) := by
  revert tag; decide

/-- An opcode of the tag rows is `0x10` plus its tag number. -/
theorem opc_of_tag {opc : BitVec 8} (h : opc.extractLsb' 4 4 = 0x1#4) :
    0x10#8 + (opc.extractLsb' 0 4).setWidth 8 = opc := by
  revert opc; decide

/-- The format check of a word that decodes to a command has passed. -/
theorem checked_eq_command {ok : Bool} {i j : Instr} (h : checked ok i = .command j) : ok = true ∧ i = j := by
  cases ok <;> simp_all [checked]

/-- A word that decodes to a command is the command's own word: no bit of it goes unread. -/
theorem encode_of_decode {w : Word} {i : Instr} (h : decode w = .command i) : encode i = w := by
  unfold decode at h
  split at h
  case isTrue hopc =>
    obtain ⟨hok, rfl⟩ := checked_eq_command h
    rw [encode, ← hopc, wordZ_of_formatZOk hok]
  split at h
  case isTrue hopc =>
    obtain ⟨hok, rfl⟩ := checked_eq_command h
    rw [encode, ← hopc, wordOfFields_of_formatPOk hok]
  split at h
  case isTrue hopc =>
    obtain ⟨hok, rfl⟩ := checked_eq_command h
    rw [encode, policyBit_policyOfBit, ← hopc, wordOfFields_of_formatCOk hok]
  split at h
  case isTrue hopc =>
    obtain ⟨hok, rfl⟩ := checked_eq_command h
    rw [encode, ← hopc, wordOfFields_of_formatSOk hok]
  split at h
  case isTrue htag =>
    obtain ⟨hok, rfl⟩ := checked_eq_command h
    rw [encode_tagCommand, opc_of_tag htag, wordZ_of_formatZOk hok]
  case isFalse => cases h

/-! ### The effect of a command -/

/-- What a command can lead to from `s`: `exec_cases` with the command each effect belongs to, and the causes of a fault. -/
inductive CommandEffect (s : State) : Instr → State → Prop
  | nop : CommandEffect s .nop s
  | fault {i : Instr} {c : FaultCode} : c ∈ commandFaults i → CommandEffect s i (raiseFault c (encode i) s)
  | sample (src dst : BitVec 4) (v : Word) : CommandEffect s (.pix src dst) (writeSample dst v s)
  | colourTable (src : BitVec 4) (pol : Policy) (table : Vector Word 4) :
      CommandEffect s (.lutc src pol) (writeClut table s)
  | alphaTable (src : BitVec 4) (table : Vector Byte 8) : CommandEffect s (.luta src) (writeAlut table s)
  | colourBlock {i : Instr} (texel : Nat → Nat → Word) (table : Vector Word 4) :
      i = .dxt1 ∨ i = .dxt2 ∨ i = .dxt3 → CommandEffect s i (writeTexels texel (writeClut table s))
  | alphaBlock {i : Instr} (texel : Nat → Nat → Word) (table : Vector Word 4) (alphas : Vector Byte 8) :
      i = .dxt4 ∨ i = .dxt5 → CommandEffect s i (writeTexels texel (writeClut table (writeAlut alphas s)))

theorem exec_effect {i : Instr} {s t : State} (h : exec i s = .next t) : CommandEffect s i t := by
  cases i with
  | nop => cases h; exact .nop
  | pix src dst =>
    simp only [exec, execPix] at h
    split at h
    · cases h; exact .fault (by simp [commandFaults])
    · split at h
      · cases h; exact .fault (by simp [commandFaults])
      · cases h; exact .sample ..
  | lutc src pol =>
    simp only [exec, execLutc] at h
    split at h
    case isTrue hpast => cases h; exact .fault (by simp [commandFaults, hpast])
    case isFalse => cases h; exact .colourTable ..
  | luta src =>
    simp only [exec, execLuta] at h
    split at h
    case isTrue hpast => cases h; exact .fault (by simp [commandFaults, hpast])
    case isFalse => cases h; exact .alphaTable ..
  | dxt1 => cases h; exact .colourBlock _ _ (.inl rfl)
  | dxt2 => cases h; exact .colourBlock _ _ (.inr (.inl rfl))
  | dxt3 => cases h; exact .colourBlock _ _ (.inr (.inr rfl))
  | dxt4 => cases h; exact .alphaBlock _ _ _ (.inl rfl)
  | dxt5 => cases h; exact .alphaBlock _ _ _ (.inr rfl)
  | dx10 | reservedTag0 | reservedTag7 | reservedTag8To15 => cases h; exact .fault (by simp [commandFaults])

/-- The latch of `t` holds what the latch of `s` holds. -/
def SameLatch (s t : State) : Prop := t.fault = s.fault ∧ t.fcode = s.fcode ∧ t.fcmd = s.fcmd

/-- The latch holds no fault and its two registers are 0. -/
def LatchCleared (s : State) : Prop := s.fault = false ∧ s.fcode = 0#4 ∧ s.fcmd = 0#32

/-- A command leaves the latch alone, or faults and writes nothing else. -/
theorem exec_latch {i : Instr} {s t : State} (h : exec i s = .next t) :
    SameLatch s t ∨ ∃ c ∈ commandFaults i, t = raiseFault c (encode i) s := by
  cases exec_effect h with
  | fault hc => exact .inr ⟨_, hc, rfl⟩
  | nop => exact .inl ⟨rfl, rfl, rfl⟩
  | _ => exact .inl (by simp [SameLatch])

/-- Who writes `OBUF` (10_state.md R39). -/
theorem exec_obuf_changed {i : Instr} {s t : State} (h : exec i s = .next t) (hne : t.obuf ≠ s.obuf) :
    (∃ src dst, i = .pix src dst) ∨ i = .dxt1 ∨ i = .dxt2 ∨ i = .dxt3 ∨ i = .dxt4 ∨ i = .dxt5 := by
  cases exec_effect h with
  | sample src dst => exact .inl ⟨src, dst, rfl⟩
  | colourBlock _ _ hi => obtain rfl | rfl | rfl := hi <;> simp
  | alphaBlock _ _ _ hi => obtain rfl | rfl := hi <;> simp
  | _ => simp at hne

/-- Who writes `CLUT` (R39). -/
theorem exec_clut_changed {i : Instr} {s t : State} (h : exec i s = .next t) (hne : t.clut ≠ s.clut) :
    (∃ src pol, i = .lutc src pol) ∨ i = .dxt1 ∨ i = .dxt2 ∨ i = .dxt3 ∨ i = .dxt4 ∨ i = .dxt5 := by
  cases exec_effect h with
  | colourTable src pol => exact .inl ⟨src, pol, rfl⟩
  | colourBlock _ _ hi => obtain rfl | rfl | rfl := hi <;> simp
  | alphaBlock _ _ _ hi => obtain rfl | rfl := hi <;> simp
  | _ => simp at hne

/-- Who writes `ALUT` (R39). -/
theorem exec_alut_changed {i : Instr} {s t : State} (h : exec i s = .next t) (hne : t.alut ≠ s.alut) :
    (∃ src, i = .luta src) ∨ i = .dxt4 ∨ i = .dxt5 := by
  cases exec_effect h with
  | alphaTable src => exact .inl ⟨src, rfl⟩
  | alphaBlock _ _ _ hi => exact .inr hi
  | _ => simp at hne

/-- `PIX` writes no sample but the one it names. -/
theorem exec_pix_other_sample {src dst : BitVec 4} {s t : State} (h : exec (.pix src dst) s = .next t) {n : Nat}
    (hn : n ≠ dst.toNat) : t.obuf[n]? = s.obuf[n]? := by
  cases exec_effect h with
  | fault => rfl
  | sample => rw [writeSample_obuf, Vector.getElem?_set_ne _ hn.symm]
  | colourBlock _ _ hi => simp at hi
  | alphaBlock _ _ _ hi => simp at hi

/-- A word handed to the block is dropped, illegal, or run as the command it decodes to (30_encoding.md R70, R71, R79). -/
theorem runCommand_cases {w : Word} {s t : State} (h : runCommand w s = .next t) :
    (s.fault = true ∧ t = s) ∨
      (s.fault = false ∧ (∃ why, decode w = .illegal why) ∧ t = raiseFault .illegalCommand w s) ∨
      (s.fault = false ∧ ∃ i, decode w = .command i ∧ exec i s = .next t) := by
  cases hf : s.fault with
  | true => rw [runCommand_faulted w hf] at h; cases h; exact .inl ⟨rfl, rfl⟩
  | false =>
    cases hd : decode w with
    | illegal why => rw [runCommand_illegal hf hd] at h; cases h; exact .inr (.inl ⟨rfl, ⟨why, rfl⟩, rfl⟩)
    | command i => rw [runCommand_decoded hf hd] at h; exact .inr (.inr ⟨rfl, i, rfl, h⟩)

/-- A word handed to the block leaves the latch alone, or no fault was latched and the word faults for one of its causes,
which writes nothing but the latch (60_exceptions.md R184). -/
theorem runCommand_latch {w : Word} {s t : State} (h : runCommand w s = .next t) :
    SameLatch s t ∨ (s.fault = false ∧ ∃ c ∈ possibleFaults w, t = raiseFault c w s) := by
  obtain ⟨-, rfl⟩ | ⟨hf, ⟨why, hd⟩, rfl⟩ | ⟨hf, i, hd, hx⟩ := runCommand_cases h
  · exact .inl ⟨rfl, rfl, rfl⟩
  · exact .inr ⟨hf, _, by simp [possibleFaults_illegal hd], rfl⟩
  · rw [possibleFaults_command hd, ← encode_of_decode hd]
    exact (exec_latch hx).imp_right fun hc => ⟨hf, hc⟩

/-- Whatever a fault entry leaves alone changes only where a word runs as a command. -/
theorem runCommand_changed {α : Type} {f : State → α} (hraise : ∀ c w s, f (raiseFault c w s) = f s) {w : Word}
    {s t : State} (h : runCommand w s = .next t) (hne : f t ≠ f s) :
    s.fault = false ∧ ∃ i, decode w = .command i ∧ exec i s = .next t := by
  obtain ⟨-, rfl⟩ | ⟨-, -, rfl⟩ | hx := runCommand_cases h
  · exact absurd rfl hne
  · exact absurd (hraise ..) hne
  · exact hx

/-! ### The effect of a host action -/

/-- What a host action can lead to; `s` is the state with the action already taken off the program. -/
inductive ActionEffect (s : State) : HostAction → State → Prop
  | read (off width : Nat) : ActionEffect s (.read off width) (answered (readAnswer off width s) s)
  | refused (off width : Nat) (v : Word) : ActionEffect s (.write off width v) (answered .accessError s)
  | register {r : Reg} {v : Word} {u : State} :
      writeReg r v s = some u → ActionEffect s (.write (regOffset r) 32 v) (answered .done u)
  | command {w : Word} {t : State} : runCommand w (answered .done s) = .next t → ActionEffect s (.write 0x0C 32 w) t
  | hardReset : ActionEffect s .hardReset (resetBlock s)

theorem writeAccess_effect {off width : Nat} {v : Word} {s t : State} (h : writeAccess off width v s = .next t) :
    ActionEffect s (.write off width v) t := by
  cases hacc : accessedReg off width with
  | none => rw [writeAccess_refused hacc] at h; cases h; exact .refused ..
  | some r =>
    obtain ⟨rfl, rfl⟩ := accessedReg_eq_some.1 hacc
    by_cases hr : r = .cmd
    · subst hr
      exact .command ((performAction_commandWrite v s).symm.trans h)
    · rw [writeAccess_register hr] at h
      cases hw : writeReg r v s with
      | none => rw [hw] at h; cases h; exact .refused ..
      | some u => rw [hw] at h; cases h; exact .register hw

theorem performAction_effect {a : HostAction} {s t : State} (h : performAction a s = .next t) : ActionEffect s a t := by
  cases a with
  | read off width => cases h; exact .read ..
  | write off width v => exact writeAccess_effect h
  | hardReset => cases h; exact .hardReset

/-- What a step can do: the one inversion lemma of `step`. -/
theorem step_effect {s t : State} {a : HostAction} {rest : List HostAction} (hp : s.program = a :: rest)
    (h : step s = .next t) : ActionEffect { s with program := rest } a t :=
  performAction_effect ((step_action hp).symm.trans h)

/-- A step whose action writes a register other than `CMD`. -/
theorem step_writeReg (r : Reg) {v : Word} {s u : State} {rest : List HostAction}
    (hp : s.program = .write (regOffset r) 32 v :: rest) (hw : writeReg r v { s with program := rest } = some u) :
    step s = .next (answered .done u) := by
  have hr : r ≠ .cmd := by rintro rfl; cases hw
  rw [step_action hp, performAction, writeAccess_register hr, hw]

/-- Where a register write that is performed goes: `CTRL`, `STATUS`, the masks or a word of `IBUF` (20_memory.md R53, R55). -/
theorem writeReg_cases {r : Reg} {v : Word} {s u : State} (h : writeReg r v s = some u) :
    (r = .ctrl ∧ u = writeCtrl v s) ∨ (r = .status ∧ u = writeStatus v s) ∨
      (∃ mr mg mb ma, u = { s with maskR := mr, maskG := mg, maskB := mb, maskA := ma }) ∨
      (∃ j, r = .ibuf j ∧ u = writeIbufWord j v s) := by
  cases r with
  | ctrl => cases h; exact .inl ⟨rfl, rfl⟩
  | status => cases h; exact .inr (.inl ⟨rfl, rfl⟩)
  | maskR | maskG | maskB | maskA => cases h; exact .inr (.inr (.inl ⟨_, _, _, _, rfl⟩))
  | ibuf j => cases h; exact .inr (.inr (.inr ⟨j, rfl, rfl⟩))
  | id | cmd | fcmd | clut | alutLo | alutHi | obuf => cases h

theorem writeCtrl_store {v : Word} (h : ctrlSrst v = false) (s : State) :
    writeCtrl v s = { s with alphaEn := ctrlAlphaEn v, pixelBytes := ctrlPixelBytes v } := by
  simp [writeCtrl, h]

theorem writeCtrl_reset {v : Word} (h : ctrlSrst v = true) (s : State) : writeCtrl v s = resetBlock s := by
  simp [writeCtrl, h]

theorem writeStatus_clear {v : Word} (h : statusClears v = true) (s : State) : writeStatus v s = clearFault s := by
  simp [writeStatus, h]

theorem writeStatus_keep {v : Word} (h : statusClears v = false) (s : State) : writeStatus v s = s := by
  simp [writeStatus, h]

theorem ctrlPixelBytes_toNat (v : Word) : (ctrlPixelBytes v).toNat = v.toNat / 2 ^ 4 % 8 := by
  rw [ctrlPixelBytes, BitVec.extractLsb'_toNat, Nat.shiftRight_eq_div_pow]

theorem resetBlock_latchCleared (s : State) : LatchCleared (resetBlock s) := by
  simp [LatchCleared]

/-- A register write leaves the latch alone or clears it; it never latches a fault. -/
theorem writeReg_latch {r : Reg} {v : Word} {s u : State} (h : writeReg r v s = some u) : SameLatch s u ∨ LatchCleared u := by
  obtain ⟨-, rfl⟩ | ⟨-, rfl⟩ | ⟨_, _, _, _, rfl⟩ | ⟨j, -, rfl⟩ := writeReg_cases h
  · cases hv : ctrlSrst v with
    | true => rw [writeCtrl_reset hv]; exact .inr (resetBlock_latchCleared s)
    | false => rw [writeCtrl_store hv]; exact .inl ⟨rfl, rfl, rfl⟩
  · cases hv : statusClears v with
    | true => rw [writeStatus_clear hv]; exact .inr ⟨rfl, rfl, rfl⟩
    | false => rw [writeStatus_keep hv]; exact .inl ⟨rfl, rfl, rfl⟩
  · exact .inl ⟨rfl, rfl, rfl⟩
  · exact .inl (by simp [SameLatch])

/-- Of the register writes only the one to a word of `IBUF` and the soft reset touch a buffer. -/
theorem writeReg_buffers {r : Reg} {v : Word} {s u : State} (h : writeReg r v s = some u)
    (hsrst : r = .ctrl → ctrlSrst v = false) :
    (u.ibuf = s.ibuf ∨ ∃ j, r = .ibuf j) ∧ u.obuf = s.obuf ∧ u.clut = s.clut ∧ u.alut = s.alut := by
  obtain ⟨hr, rfl⟩ | ⟨-, rfl⟩ | ⟨_, _, _, _, rfl⟩ | ⟨j, hr, rfl⟩ := writeReg_cases h
  · rw [writeCtrl_store (hsrst hr)]; exact ⟨.inl rfl, rfl, rfl, rfl⟩
  · cases hv : statusClears v with
    | true => rw [writeStatus_clear hv]; exact ⟨.inl rfl, rfl, rfl, rfl⟩
    | false => rw [writeStatus_keep hv]; exact ⟨.inl rfl, rfl, rfl, rfl⟩
  · exact ⟨.inl rfl, rfl, rfl, rfl⟩
  · exact ⟨.inr ⟨j, hr⟩, by simp⟩

/-! ### What registers read as -/

theorem readAnswer_of_readReg (r : Reg) {s : State} {v : Word} (h : readReg r s = some v) :
    readAnswer (regOffset r) 32 s = .value v := by
  rw [readAnswer_regOffset, h]

theorem ctrlWord_toNat (s : State) : (ctrlWord s).toNat = s.pixelBytes.toNat * 16 + s.alphaEn.toNat := by
  have := s.pixelBytes.isLt
  have := s.alphaEn.toNat_lt
  simp only [ctrlWord, BitVec.toNat_ofNat]
  omega

theorem statusWord_toNat (s : State) : (statusWord s).toNat = s.fcode.toNat * 16 + s.fault.toNat := by
  have := s.fcode.isLt
  have := s.fault.toNat_lt
  simp only [statusWord, BitVec.toNat_ofNat]
  omega

/-- The registers the host configures read alike where `CTRL`, the masks and `IBUF` agree. -/
theorem readAnswer_configured {s t : State} (hctrl : ctrlWord t = ctrlWord s) (hr : t.maskR = s.maskR)
    (hg : t.maskG = s.maskG) (hb : t.maskB = s.maskB) (ha : t.maskA = s.maskA) (hi : t.ibuf = s.ibuf) {off : Nat}
    (hoff : off ≤ 0x04 ∨ (0x20 ≤ off ∧ off ≤ 0x3C)) (width : Nat) : readAnswer off width t = readAnswer off width s := by
  cases hacc : accessedReg off width with
  | none => simp only [readAnswer, hacc]
  | some r =>
    obtain ⟨rfl, rfl⟩ := accessedReg_eq_some.1 hacc
    have hread : readReg r t = readReg r s := by
      cases r with
      | id => rfl
      | ctrl => exact congrArg some hctrl
      | maskR => exact congrArg some hr
      | maskG => exact congrArg some hg
      | maskB => exact congrArg some hb
      | maskA => exact congrArg some ha
      | ibuf j => simp only [readReg, memRead_congr hi]
      | status | cmd | fcmd | clut | alutLo | alutHi | obuf => simp only [regOffset] at hoff; omega
    rw [readAnswer_regOffset, readAnswer_regOffset, hread]

end Sys2Proof.Machine
end

section
/-! PROOFS. The obligations on the state (10_state.md): the fault latch and its invariant, the frame of the commands, the
writers of the buffers, and what `ID`, `CTRL`, `STATUS` and the masks do. -/

namespace Sys2Proof.Machine

/-! ### The invariant of the fault latch (R27, R28, 60_exceptions.md R181) -/

theorem LatchConsistent.of_sameLatch {s t : State} (hs : LatchConsistent s) (h : SameLatch s t) : LatchConsistent t := by
  obtain ⟨hfault, hcode, hcmd⟩ := h
  rwa [LatchConsistent, hfault, hcode, hcmd]

theorem LatchCleared.latchConsistent {s : State} (h : LatchCleared s) : LatchConsistent s := by
  obtain ⟨hfault, hcode, hcmd⟩ := h
  exact ⟨fun _ => ⟨hcode, hcmd⟩, fun ht => by simp [hfault] at ht⟩

theorem latchConsistent_raiseFault {c : FaultCode} {w : Word} (hc : c ∈ possibleFaults w) (s : State) :
    LatchConsistent (raiseFault c w s) :=
  ⟨nofun, fun _ => ⟨c, hc, rfl⟩⟩

/-- Settles O12: reads and refused accesses leave the latch alone, register writes and resets leave or clear it, and a command
leaves it or writes its own word with one of the word's causes. -/
theorem stepKeepsLatchConsistent : Obligations.StepKeepsLatchConsistent := by
  intro s t hs h
  cases hp : s.program with
  | nil => rw [step_idle hp] at h; cases h; exact hs
  | cons a rest =>
    cases step_effect hp h with
    | read | refused => exact hs.of_sameLatch ⟨rfl, rfl, rfl⟩
    | hardReset => exact (resetBlock_latchCleared _).latchConsistent
    | register hw => exact (writeReg_latch hw).elim hs.of_sameLatch LatchCleared.latchConsistent
    | command hx =>
      obtain hsame | ⟨-, c, hc, rfl⟩ := runCommand_latch hx
      · exact hs.of_sameLatch hsame
      · exact latchConsistent_raiseFault hc _

theorem faultBits_toNat_le (c : FaultCode) : (faultBits c).toNat ≤ 4 := by
  cases c <;> decide

theorem LatchConsistent.fcode_toNat_le {s : State} (h : LatchConsistent s) : s.fcode.toNat ≤ 4 := by
  obtain ⟨hclear, hlatched⟩ := h
  cases hf : s.fault with
  | false => simp [(hclear hf).1]
  | true =>
    obtain ⟨c, -, hcode⟩ := hlatched hf
    exact hcode ▸ faultBits_toNat_le c

theorem launch_latchConsistent (bufs : Buffers) (p : S2LE) (program : List HostAction) :
    LatchConsistent (State.launch bufs p program) :=
  LatchCleared.latchConsistent ⟨rfl, rfl, rfl⟩

/-- Settles O13: a launch state holds a cleared latch, and every code is at most 4. -/
theorem latchConsistentAtLaunch : Obligations.LatchConsistentAtLaunch :=
  ⟨launch_latchConsistent, launch_latchConsistent _ _ _, fun _ => LatchConsistent.fcode_toNat_le⟩

/-- Of all actions only a write to `CMD` latches a fault, and it leaves its word in `FCMD`. -/
theorem step_sets_fault {s t : State} {a : HostAction} {rest : List HostAction} (hp : s.program = a :: rest)
    (hs : s.fault = false) (h : step s = .next t) (ht : t.fault = true) : ∃ w, a = .write 0x0C 32 w ∧ t.fcmd = w := by
  have unlatched_of_same {u : State} (hsame : SameLatch s u) : u.fault ≠ true := by simp [hsame.1, hs]
  cases step_effect hp h with
  | read | refused => exact absurd ht (unlatched_of_same ⟨rfl, rfl, rfl⟩)
  | hardReset => simp at ht
  | register hw =>
    obtain hsame | hclear := writeReg_latch hw
    · exact absurd ht (unlatched_of_same hsame)
    · exact absurd (hclear.1.symm.trans ht) Bool.false_ne_true
  | @command w _ hx =>
    obtain hsame | ⟨-, c, -, rfl⟩ := runCommand_latch hx
    · exact absurd ht (unlatched_of_same hsame)
    · exact ⟨w, rfl, rfl⟩

/-- Settles O24: the write goes to `writeStatus`, and `step_sets_fault` names the one action that latches a fault. -/
theorem statusReadAndWriteOneToClear : Obligations.StatusReadAndWriteOneToClear := by
  refine ⟨fun s => ⟨statusWord s, readAnswer_of_readReg .status rfl, statusWord_toNat s⟩, fun s v rest hp => ⟨?_, ?_⟩,
    fun s t a rest => step_sets_fault⟩
  · intro hv
    exact step_writeReg .status hp (congrArg some (writeStatus_clear hv _))
  · intro hv
    exact step_writeReg .status hp (congrArg some (writeStatus_keep hv _))

/-! ### Frames (R39) -/

/-- Settles O28: a read, a refused access and a register write other than to `IBUF` keep the four buffers, and a command
that changes one is among its writers. -/
theorem buffersChangeOnlyByTheirWriters : Obligations.BuffersChangeOnlyByTheirWriters := by
  intro s t a rest hp h hreset hsrst
  cases step_effect hp h with
  | read | refused => simp
  | hardReset => exact absurd rfl hreset
  | @register r v u hw =>
    have hctrl : r = .ctrl → ctrlSrst v = false := by rintro rfl; exact hsrst v rfl
    obtain ⟨hibuf, hobuf, hclut, halut⟩ := writeReg_buffers hw hctrl
    refine ⟨fun hne => ?_, absurd hobuf, absurd hclut, absurd halut⟩
    obtain ⟨j, rfl⟩ := hibuf.resolve_left hne
    exact ⟨_, v, rfl, by simp only [regOffset]; omega, by simp only [regOffset]; omega⟩
  | @command w _ hx =>
    refine ⟨fun hne => ?_, fun hne => ?_, fun hne => ?_, fun hne => ?_⟩
    · obtain ⟨-, i, -, he⟩ := runCommand_changed (f := State.ibuf) raiseFault_ibuf hx hne
      obtain ⟨-, -, -, -, -, -, hibuf, -⟩ := exec_keeps he
      exact absurd hibuf hne
    · obtain ⟨hf, i, hd, he⟩ := runCommand_changed (f := State.obuf) raiseFault_obuf hx hne
      exact ⟨w, i, rfl, hf, hd, exec_obuf_changed he hne⟩
    · obtain ⟨hf, i, hd, he⟩ := runCommand_changed (f := State.clut) raiseFault_clut hx hne
      exact ⟨w, i, rfl, hf, hd, exec_clut_changed he hne⟩
    · obtain ⟨hf, i, hd, he⟩ := runCommand_changed (f := State.alut) raiseFault_alut hx hne
      exact ⟨w, i, rfl, hf, hd, exec_alut_changed he hne⟩

/-- A block decode never faults. -/
theorem exec_block_sameLatch {i : Instr} {s t : State} (h : exec i s = .next t)
    (hi : i = .dxt1 ∨ i = .dxt2 ∨ i = .dxt3 ∨ i = .dxt4 ∨ i = .dxt5) : SameLatch s t := by
  refine (exec_latch h).resolve_right ?_
  rintro ⟨c, hc, -⟩
  obtain rfl | rfl | rfl | rfl | rfl := hi <;> simp [commandFaults] at hc

/-- Settles O29: the frame of each output is its list of writers read the other way round. -/
theorem commandFrame : Obligations.CommandFrame := by
  intro i s t h
  have hkeeps := exec_keeps h
  refine ⟨hkeeps, ?_, ?_, ?_, ?_, ?_, exec_block_sameLatch h, ?_⟩
  · rintro rfl
    cases h; rfl
  · intro hi
    by_contra hne
    obtain ⟨_, _, rfl⟩ | rfl | rfl | rfl | rfl | rfl := exec_obuf_changed h hne <;> simp at hi
  · rintro src dst rfl
    refine ⟨?_, ?_, fun n hn => exec_pix_other_sample h hn⟩
    · by_contra hne
      simpa using exec_clut_changed h hne
    · by_contra hne
      simpa using exec_alut_changed h hne
  · intro hi
    by_contra hne
    obtain ⟨_, _, rfl⟩ | rfl | rfl | rfl | rfl | rfl := exec_clut_changed h hne <;> simp at hi
  · intro hi
    by_contra hne
    obtain ⟨_, rfl⟩ | rfl | rfl := exec_alut_changed h hne <;> simp at hi
  · obtain ⟨halpha, hbytes, hr, hg, hb, ha, hibuf, -⟩ := hkeeps
    have hctrl : ctrlWord t = ctrlWord s := by rw [ctrlWord, ctrlWord, halpha, hbytes]
    exact fun off width hoff => readAnswer_configured hctrl hr hg hb ha hibuf hoff width

/-! ### Registers one by one -/

/-- Settles O22: the window reads `ID` from no field. -/
theorem idIsConstant : Obligations.IdIsConstant := fun _ => readAnswer_of_readReg .id rfl

/-- Settles O19: each register's reading, one by one. -/
theorem launchRegisterValues : Obligations.LaunchRegisterValues := by
  refine ⟨fun bufs p program => ⟨idIsConstant _, fun off hoff => ?_, rfl⟩, zeroBuffers, .thirds, rfl⟩
  simp only [List.mem_cons, List.not_mem_nil, or_false] at hoff
  obtain rfl | rfl | rfl | rfl | rfl | rfl | rfl := hoff
  · exact readAnswer_of_readReg .ctrl rfl
  · exact readAnswer_of_readReg .status rfl
  · exact readAnswer_of_readReg .fcmd rfl
  · exact readAnswer_of_readReg .maskR rfl
  · exact readAnswer_of_readReg .maskG rfl
  · exact readAnswer_of_readReg .maskB rfl
  · exact readAnswer_of_readReg .maskA rfl

/-- Settles O23: bit 31 chooses between `writeCtrl_store` and `writeCtrl_reset`, and a read is `ctrlWord`. -/
theorem ctrlWriteAndRead : Obligations.CtrlWriteAndRead := by
  refine ⟨fun s v rest hp hv => ?_, fun s v rest hp hv => ?_, fun s => ?_, fun bufs p program => ?_⟩
  · exact ⟨ctrlPixelBytes v, ctrlPixelBytes_toNat v, step_writeReg .ctrl hp (congrArg some (writeCtrl_store hv _))⟩
  · exact ⟨_, step_writeReg .ctrl hp (congrArg some (writeCtrl_reset hv _)), by simp⟩
  · exact ⟨ctrlWord s, readAnswer_of_readReg .ctrl rfl, ctrlWord_toNat s⟩
  · exact readAnswer_of_readReg .ctrl rfl

/-- Settles O25: no arm of `writeReg` for a mask looks at the latch. -/
theorem maskRegistersStoreWholeWords : Obligations.MaskRegistersStoreWholeWords := fun _ _ _ =>
  ⟨fun hp => step_writeReg .maskR hp rfl, fun hp => step_writeReg .maskG hp rfl, fun hp => step_writeReg .maskB hp rfl,
    fun hp => step_writeReg .maskA hp rfl, readAnswer_of_readReg .maskR rfl, readAnswer_of_readReg .maskG rfl,
    readAnswer_of_readReg .maskB rfl, readAnswer_of_readReg .maskA rfl⟩

end Sys2Proof.Machine
end

section
/-! PROOFS. The obligations on the register window and on what a command depends on (20_memory.md): what an access is
answered and leaves alone, the byte lanes of `IBUF`, `OBUF`, `CLUT` and `ALUT`, and the commands as pure functions. -/

namespace Sys2Proof.Machine

/-! ### Commands as pure functions (R62) -/

/-- `t` holds in `CTRL`, the masks, `IBUF` and `P_S2LE`, all a command may depend on, what `s` holds. -/
structure SameInputs (s t : State) : Prop where
  alphaEn : t.alphaEn = s.alphaEn
  pixelBytes : t.pixelBytes = s.pixelBytes
  maskR : t.maskR = s.maskR
  maskG : t.maskG = s.maskG
  maskB : t.maskB = s.maskB
  maskA : t.maskA = s.maskA
  ibuf : t.ibuf = s.ibuf
  s2le : t.s2le = s.s2le

theorem SameInputs.refl (s : State) : SameInputs s s := ⟨rfl, rfl, rfl, rfl, rfl, rfl, rfl, rfl⟩

/-- No command writes what a command may depend on. -/
theorem exec_sameInputs {i : Instr} {s t : State} (h : exec i s = .next t) : SameInputs s t := by
  obtain ⟨halpha, hbytes, hr, hg, hb, ha, hibuf, hs2le, -⟩ := exec_keeps h
  exact ⟨halpha, hbytes, hr, hg, hb, ha, hibuf, hs2le⟩

/-- What a command writes, as data: which registers and what values, apart from the state it is written into. -/
inductive CommandWrite
  | nothing
  | latch (c : FaultCode) (w : Word)
  | sample (dst : BitVec 4) (v : Word)
  | colourTable (table : Vector Word 4)
  | alphaTable (table : Vector Byte 8)
  | colourBlock (texel : Nat → Nat → Word) (table : Vector Word 4)
  | alphaBlock (texel : Nat → Nat → Word) (table : Vector Word 4) (alphas : Vector Byte 8)

/-- The write carried out: each kind is one of the shared operations, or two or three of them in a row. -/
def CommandWrite.apply : CommandWrite → State → State
  | .nothing, s => s
  | .latch c w, s => raiseFault c w s
  | .sample dst v, s => writeSample dst v s
  | .colourTable table, s => writeClut table s
  | .alphaTable table, s => writeAlut table s
  | .colourBlock texel table, s => writeTexels texel (writeClut table s)
  | .alphaBlock texel table alphas, s => writeTexels texel (writeClut table (writeAlut alphas s))

theorem pixelBytesOk_congr {s t : State} (h : s.pixelBytes = t.pixelBytes) : pixelBytesOk s = pixelBytesOk t := by
  simp only [pixelBytesOk, h]

/-- Purity: the inputs of a command determine what it writes, whatever else the state holds. -/
theorem exec_eq_apply (i : Instr) (s : State) :
    ∃ cw : CommandWrite, ∀ t, SameInputs s t → exec i t = .next (cw.apply t) := by
  cases i with
  | nop => exact ⟨.nothing, fun _ _ => rfl⟩
  | pix src dst =>
    by_cases hok : pixelBytesOk s = true
    · by_cases hpast : pastIbuf src s.pixelBytes.toNat = true
      · exact ⟨.latch .ibufRange (encode (.pix src dst)), fun t h => by
          simp [exec, execPix, pixelBytesOk_congr h.pixelBytes, h.pixelBytes, hok, hpast, CommandWrite.apply]⟩
      · exact ⟨.sample dst (pixelSample s (pixelWord s src)), fun t h => by
          simp [exec, execPix, pixelBytesOk_congr h.pixelBytes, h.pixelBytes, hok, hpast, CommandWrite.apply,
            pixelWord_congr h.ibuf h.pixelBytes, pixelSample_congr h.maskR h.maskG h.maskB h.maskA]⟩
    · exact ⟨.latch .unsupportedPixelBytes (encode (.pix src dst)), fun t h => by
        simp [exec, execPix, pixelBytesOk_congr h.pixelBytes, hok, CommandWrite.apply]⟩
  | lutc src pol =>
    by_cases hpast : pastIbuf src 4 = true
    · exact ⟨.latch .ibufRange (encode (.lutc src pol)), fun t _ => if_pos hpast⟩
    · refine ⟨.colourTable (colourTableAt s src.toNat pol s.alphaEn), fun t h => (if_neg hpast).trans ?_⟩
      rw [h.alphaEn, colourTableAt_congr h.ibuf h.s2le, CommandWrite.apply]
  | luta src =>
    by_cases hpast : pastIbuf src 2 = true
    · exact ⟨.latch .ibufRange (encode (.luta src)), fun t _ => if_pos hpast⟩
    · refine ⟨.alphaTable (alphaTableAt s src.toNat), fun t h => (if_neg hpast).trans ?_⟩
      rw [alphaTableAt_congr h.ibuf, CommandWrite.apply]
  | dxt1 =>
    refine ⟨.colourBlock (dxt1Texel s) (dxt1Table s), fun t h => ?_⟩
    rw [CommandWrite.apply, ← dxt1Texel_congr h.ibuf h.s2le h.alphaEn, ← dxt1Table_congr h.ibuf h.s2le h.alphaEn]
    rfl
  | dxt2 | dxt3 =>
    refine ⟨.colourBlock (dxt23Texel s) (dxt2345Table s), fun t h => ?_⟩
    rw [CommandWrite.apply, ← dxt23Texel_congr h.ibuf h.s2le, ← dxt2345Table_congr h.ibuf h.s2le]
    rfl
  | dxt4 | dxt5 =>
    refine ⟨.alphaBlock (dxt45Texel s) (dxt2345Table s) (alphaTableAt s 0), fun t h => ?_⟩
    rw [CommandWrite.apply, ← dxt45Texel_congr h.ibuf h.s2le, ← dxt2345Table_congr h.ibuf h.s2le,
      ← alphaTableAt_congr h.ibuf]
    rfl
  | dx10 | reservedTag0 | reservedTag7 | reservedTag8To15 =>
    exact ⟨.latch .unsupportedCompression (encode _), fun _ _ => rfl⟩

/-- Writing the same twice is writing it once. -/
theorem CommandWrite.apply_apply (cw : CommandWrite) (s : State) : cw.apply (cw.apply s) = cw.apply s := by
  cases cw with
  | sample dst v => simp only [apply, writeSample, Vector.set_set]
  | colourBlock | alphaBlock => simp only [apply, writeTexels, writeClut, writeAlut]
  | nothing | latch | colourTable | alphaTable => rfl

theorem CommandWrite.apply_latch (cw : CommandWrite) (s t : State) :
    SameLatch (cw.apply t) (cw.apply s) ∨ (SameLatch s (cw.apply s) ∧ SameLatch t (cw.apply t)) := by
  cases cw with
  | latch => exact .inl ⟨rfl, rfl, rfl⟩
  | _ => exact .inr (by simp [SameLatch, apply])

theorem CommandWrite.apply_clut (cw : CommandWrite) (s t : State) :
    (cw.apply s).clut = (cw.apply t).clut ∨ ((cw.apply s).clut = s.clut ∧ (cw.apply t).clut = t.clut) := by
  cases cw with
  | colourTable | colourBlock | alphaBlock => exact .inl (by simp [apply])
  | nothing | latch | sample | alphaTable => exact .inr ⟨rfl, rfl⟩

theorem CommandWrite.apply_alut (cw : CommandWrite) (s t : State) :
    (cw.apply s).alut = (cw.apply t).alut ∨ ((cw.apply s).alut = s.alut ∧ (cw.apply t).alut = t.alut) := by
  cases cw with
  | alphaTable | alphaBlock => exact .inl (by simp [apply])
  | colourBlock => exact .inr (by simp [apply])
  | nothing | latch | sample | colourTable => exact .inr ⟨rfl, rfl⟩

theorem CommandWrite.apply_obuf (cw : CommandWrite) (s t : State) (n : Nat) :
    (cw.apply s).obuf[n]? = (cw.apply t).obuf[n]? ∨
      ((cw.apply s).obuf[n]? = s.obuf[n]? ∧ (cw.apply t).obuf[n]? = t.obuf[n]?) := by
  cases cw with
  | sample dst v =>
    by_cases hn : dst.toNat = n
    · subst hn
      exact .inl (by simp only [apply, writeSample_obuf, Vector.getElem?_set_self])
    · exact .inr (by simp only [apply, writeSample_obuf, Vector.getElem?_set_ne _ hn, and_self])
  | colourBlock | alphaBlock => exact .inl (by simp only [apply, writeTexels_obuf])
  | nothing | latch | colourTable | alphaTable => exact .inr ⟨rfl, rfl⟩

/-- Settles O30: both states get the one write their common inputs determine. -/
theorem commandsArePureFunctions : Obligations.CommandsArePureFunctions := by
  intro i s s' halpha hbytes hr hg hb ha hibuf hs2le
  obtain ⟨cw, hcw⟩ := exec_eq_apply i s'
  refine ⟨_, _, hcw s ⟨halpha, hbytes, hr, hg, hb, ha, hibuf, hs2le⟩, hcw s' (.refl s'), ?_, cw.apply_clut s s',
    cw.apply_alut s s', cw.apply_obuf s s'⟩
  refine (cw.apply_latch s s').imp_right ?_
  rintro ⟨⟨hfault, hcode, hcmd⟩, hkept'⟩
  exact ⟨hfault, hcode, hcmd, hkept'⟩

/-- A command that completed writes the same again. -/
theorem exec_again {i : Instr} {s t : State} (h : exec i s = .next t) : exec i t = .next t := by
  obtain ⟨cw, hcw⟩ := exec_eq_apply i s
  have ht : t = cw.apply s := by simpa using h.symm.trans (hcw s (.refl s))
  rw [hcw t (exec_sameInputs h), ht, cw.apply_apply]

/-- Settles O31: a dropped word is dropped again, a faulting one is dropped the second time, and a command writes the same
again. -/
theorem repeatedCommandChangesNothing : Obligations.RepeatedCommandChangesNothing := by
  intro w s t h
  cases ht : t.fault with
  | true => exact runCommand_faulted w ht
  | false =>
    obtain ⟨-, rfl⟩ | ⟨-, -, rfl⟩ | ⟨-, i, hd, hx⟩ := runCommand_cases h
    · exact h
    · cases ht
    · rw [runCommand_decoded ht hd, exec_again hx]

/-! ### Reads (R54) -/

/-- No register reads the host's program or the answers already given. -/
theorem readAnswer_answered (off width : Nat) (a : Answer) (rest : List HostAction) (s : State) :
    readAnswer off width (answered a { s with program := rest }) = readAnswer off width s := by
  cases hacc : accessedReg off width with
  | none => simp only [readAnswer, hacc]
  | some r =>
    have hread : readReg r (answered a { s with program := rest }) = readReg r s := by cases r <;> rfl
    simp only [readAnswer, hacc, hread]

/-- A step whose action is a read. -/
theorem step_read {s : State} {off width : Nat} {rest : List HostAction} (hp : s.program = .read off width :: rest) :
    step s = .next (answered (readAnswer off width s) { s with program := rest }) := by
  rw [step_action hp, performAction_read]
  exact congrArg (fun a => Host.Outcome.next (answered a _)) (readAnswer_answered off width .done rest s)

/-- Settles O20: the answer is recorded and no register reads the answers. -/
theorem readsHaveNoSideEffect : Obligations.ReadsHaveNoSideEffect := fun s _ _ rest hp =>
  ⟨_, step_read hp, rfl, fun off' width' => readAnswer_answered off' width' _ rest s⟩

/-! ### One action, one answer (R61, 00_scope.md R9) -/

/-- `t` has the program, the parameter `P_S2LE` and the answers of `s`: none of them is the block's to write. -/
def SameRun (s t : State) : Prop := t.program = s.program ∧ t.s2le = s.s2le ∧ t.answers = s.answers

theorem runCommand_sameRun {w : Word} {s t : State} (h : runCommand w s = .next t) : SameRun s t := by
  obtain ⟨-, rfl⟩ | ⟨-, -, rfl⟩ | ⟨-, i, -, hx⟩ := runCommand_cases h
  · exact ⟨rfl, rfl, rfl⟩
  · exact ⟨rfl, rfl, rfl⟩
  · obtain ⟨-, -, -, -, -, -, -, hs2le, -, hprogram, hanswers⟩ := exec_keeps hx
    exact ⟨hprogram, hs2le, hanswers⟩

theorem writeReg_sameRun {r : Reg} {v : Word} {s u : State} (h : writeReg r v s = some u) : SameRun s u := by
  obtain ⟨-, rfl⟩ | ⟨-, rfl⟩ | ⟨_, _, _, _, rfl⟩ | ⟨j, -, rfl⟩ := writeReg_cases h
  · cases hv : ctrlSrst v with
    | true => rw [writeCtrl_reset hv]; simp [SameRun]
    | false => rw [writeCtrl_store hv]; exact ⟨rfl, rfl, rfl⟩
  · cases hv : statusClears v with
    | true => rw [writeStatus_clear hv]; exact ⟨rfl, rfl, rfl⟩
    | false => rw [writeStatus_keep hv]; exact ⟨rfl, rfl, rfl⟩
  · exact ⟨rfl, rfl, rfl⟩
  · simp [SameRun]

/-- Settles O10: the action comes off the program before it is performed, and its effect adds the one answer. -/
theorem stepConsumesOneAction : Obligations.StepConsumesOneAction := by
  intro s t a rest hp h
  cases step_effect hp h with
  | read | refused => exact ⟨rfl, rfl, nofun, fun _ => ⟨_, rfl⟩⟩
  | register hw =>
    obtain ⟨hprogram, hs2le, hanswers⟩ := writeReg_sameRun hw
    exact ⟨hprogram, hs2le, nofun, fun _ => ⟨.done, congrArg (List.cons Answer.done) hanswers⟩⟩
  | command hx =>
    obtain ⟨hprogram, hs2le, hanswers⟩ := runCommand_sameRun hx
    exact ⟨hprogram, hs2le, nofun, fun _ => ⟨.done, hanswers⟩⟩
  | hardReset => simp

/-! ### Refused accesses (R52, R53) -/

/-- The registers a `HostWrite` reaches: `CMD` and those that store (R53). -/
def Reg.writable : Reg → Bool
  | .ctrl | .status | .cmd | .maskR | .maskG | .maskB | .maskA | .ibuf _ => true
  | .id | .fcmd | .clut _ | .alutLo | .alutHi | .obuf _ => false

theorem readReg_eq_none_iff (r : Reg) (s : State) : readReg r s = none ↔ r = .cmd := by
  cases r <;> simp [readReg]

theorem writeReg_of_not_writable {r : Reg} (hr : r.writable = false) (v : Word) (s : State) : writeReg r v s = none := by
  cases r <;> simp_all [Reg.writable, writeReg]

theorem exists_writeReg_of_writable {r : Reg} (hr : r.writable = true) (hcmd : r ≠ .cmd) (v : Word) (s : State) :
    ∃ u, writeReg r v s = some u := by
  cases r <;> simp_all [Reg.writable, writeReg]

/-- Which offsets a class of registers occupies, from the 64 words of the window (10_state.md R20). -/
theorem exists_regOffset_iff {p : Reg → Prop} {q : Nat → Prop}
    (hbound : ∀ off, q off → off < 256)
    (hmap : ∀ k < 64, (∃ r ∈ allRegs, p r ∧ 4 * k = regOffset r) ↔ q (4 * k)) (off : Nat) :
    (∃ r, p r ∧ off = regOffset r) ↔ off % 4 = 0 ∧ q off := by
  constructor
  · rintro ⟨r, hr, rfl⟩
    obtain ⟨haligned, hlt⟩ := regOffset_aligned r
    obtain ⟨k, hk⟩ := Nat.dvd_of_mod_eq_zero haligned
    exact ⟨haligned, hk ▸ (hmap k (by omega)).1 ⟨r, mem_allRegs r, hr, hk.symm⟩⟩
  · rintro ⟨haligned, hq⟩
    obtain ⟨k, rfl⟩ := Nat.dvd_of_mod_eq_zero haligned
    obtain ⟨r, -, hr, hk⟩ := (hmap k (by have := hbound _ hq; omega)).2 hq
    exact ⟨r, hr, hk⟩

theorem readable_offset_iff (off : Nat) : (∃ r, r ≠ .cmd ∧ off = regOffset r) ↔ off % 4 = 0 ∧
    (off ≤ 0x08 ∨ off = 0x10 ∨ (0x20 ≤ off ∧ off ≤ 0x54) ∨ (0x80 ≤ off ∧ off ≤ 0xBC)) := by
  apply exists_regOffset_iff (p := (· ≠ .cmd))
  · intro off hoff; omega
  · decide

theorem writable_offset_iff (off : Nat) : (∃ r : Reg, r.writable = true ∧ off = regOffset r) ↔ off % 4 = 0 ∧
    ((0x04 ≤ off ∧ off ≤ 0x0C) ∨ (0x20 ≤ off ∧ off ≤ 0x3C)) := by
  apply exists_regOffset_iff (p := (·.writable = true))
  · intro off hoff; omega
  · decide

/-- A read is refused unless it is 32 bits wide at the offset of a register other than `CMD`. -/
theorem readAnswer_eq_accessError_iff (off width : Nat) (s : State) :
    readAnswer off width s = .accessError ↔ ¬ (width = 32 ∧ ∃ r, r ≠ .cmd ∧ off = regOffset r) := by
  constructor
  · rintro h ⟨rfl, r, hr, rfl⟩
    obtain ⟨v, hv⟩ := Option.ne_none_iff_exists'.1 (mt (readReg_eq_none_iff r s).1 hr)
    rw [readAnswer_of_readReg r hv] at h
    cases h
  · intro h
    cases hacc : accessedReg off width with
    | none => simp only [readAnswer, hacc]
    | some r =>
      obtain ⟨rfl, rfl⟩ := accessedReg_eq_some.1 hacc
      have hcmd : r = .cmd := by
        by_contra hr
        exact h ⟨rfl, r, hr, rfl⟩
      rw [readAnswer_regOffset, (readReg_eq_none_iff r s).2 hcmd]

/-- A write elsewhere than at a writable register, or of another width, is refused. -/
theorem writeAccess_of_not_writable {off width : Nat}
    (h : ¬ (width = 32 ∧ ∃ r : Reg, r.writable = true ∧ off = regOffset r)) (v : Word) (s : State) :
    writeAccess off width v s = .next (answered .accessError s) := by
  cases hacc : accessedReg off width with
  | none => exact writeAccess_refused hacc v s
  | some r =>
    obtain ⟨rfl, rfl⟩ := accessedReg_eq_some.1 hacc
    have hr : r.writable = false := by
      by_contra hr
      exact h ⟨rfl, r, Bool.of_not_eq_false hr, rfl⟩
    rw [writeAccess_register (by rintro rfl; cases hr), writeReg_of_not_writable hr]

/-- A word handed to the block always leads to a next state. -/
theorem exists_runCommand_next (w : Word) (s : State) : ∃ t, runCommand w s = .next t := by
  cases hf : s.fault with
  | true => exact ⟨s, runCommand_faulted w hf⟩
  | false =>
    cases hd : decode w with
    | illegal why => exact ⟨_, runCommand_illegal hf hd⟩
    | command i =>
      obtain ⟨cw, hcw⟩ := exec_eq_apply i s
      exact ⟨cw.apply s, (runCommand_decoded hf hd).trans (hcw s (.refl s))⟩

/-- A write to a writable register is performed and answered so. -/
theorem writeAccess_of_writable {r : Reg} (hr : r.writable = true) (v : Word) (s : State) :
    ∃ t, writeAccess (regOffset r) 32 v s = .next t ∧ t.answers = .done :: s.answers := by
  by_cases hcmd : r = .cmd
  · subst hcmd
    obtain ⟨t, ht⟩ := exists_runCommand_next v (answered .done s)
    obtain ⟨-, -, hanswers⟩ := runCommand_sameRun ht
    exact ⟨t, (performAction_commandWrite v s).trans ht, hanswers⟩
  · obtain ⟨u, hu⟩ := exists_writeReg_of_writable hr hcmd v s
    obtain ⟨-, -, hanswers⟩ := writeReg_sameRun hu
    exact ⟨answered .done u, by rw [writeAccess_register hcmd, hu], congrArg (List.cons Answer.done) hanswers⟩

/-- Settles O21: the two offset ranges are the readable and the writable registers of the map. -/
theorem refusedAccesses : Obligations.RefusedAccesses := by
  intro s off width
  refine ⟨fun rest hp hrefused => ?_, ?_, fun v rest hp hout => ?_, fun v rest hp hin => ?_⟩
  · rw [step_read hp, hrefused]; rfl
  · rw [readAnswer_eq_accessError_iff, readable_offset_iff]
  · rw [← writable_offset_iff] at hout
    rw [step_action hp, performAction, writeAccess_of_not_writable hout]; rfl
  · obtain ⟨rfl, hoff⟩ := hin
    obtain ⟨r, hr, rfl⟩ := (writable_offset_iff off).2 hoff
    rw [step_action hp]
    exact writeAccess_of_writable hr v _

/-! ### The words of `IBUF` (R56) -/

/-- A byte of `IBUF` after a write to a word of it: byte `k % 4` of the value in that word, as before elsewhere. -/
theorem writeIbufWord_getElem? (j : Fin 4) (v : Word) (s : State) (k : Nat) :
    (writeIbufWord j v s).ibuf[k]? = if k / 4 = j then some (v.extractLsb' (8 * (k % 4)) 8) else s.ibuf[k]? := by
  simp only [writeIbufWord, Vector.getElem?_set]
  by_cases hk : k / 4 = j.val
  · obtain ⟨d, hd, rfl⟩ : ∃ d < 4, k = 4 * j.val + d := ⟨k % 4, by omega, by omega⟩
    have hmod : (4 * j.val + d) % 4 = d := by omega
    rw [if_pos hk, hmod]
    interval_cases d <;> simp
  · rw [if_neg hk]
    have hne {d : Nat} (hd : d < 4) : 4 * j.val + d ≠ k := by omega
    rw [if_neg (hne (d := 3) (by decide)), if_neg (hne (d := 2) (by decide)), if_neg (hne (d := 1) (by decide)),
      if_neg (show 4 * j.val ≠ k from hne (d := 0) (by decide))]

/-- `IBUFj` reads as its four bytes packed, the lowest index least significant. -/
theorem readReg_ibuf (j : Fin 4) (s : State) :
    readReg (.ibuf j) s = some (packBytes (ibufByte s (4 * j)) (ibufByte s (4 * j + 1)) (ibufByte s (4 * j + 2))
      (ibufByte s (4 * j + 3))) := by
  refine congrArg (fun n => some (BitVec.ofNat 32 n)) ?_
  simp only [memRead_succ, memRead_zero, Nat.add_assoc, Nat.reduceAdd]
  omega

theorem ibufByte_writeIbufWord (j : Fin 4) (v : Word) (s : State) {d : Nat} (hd : d < 4) :
    ibufByte (writeIbufWord j v s) (4 * j + d) = v.extractLsb' (8 * d) 8 := by
  have hlt : 4 * j.val + d < 16 := by omega
  have hdiv : (4 * j.val + d) / 4 = j := by omega
  have hmod : (4 * j.val + d) % 4 = d := by omega
  have hget := writeIbufWord_getElem? j v s (4 * j + d)
  rw [if_pos hdiv, hmod, Vector.getElem?_eq_getElem hlt] at hget
  exact (ibufByte_of_lt _ hlt).trans (Option.some.inj hget)

/-- What was written to a word of `IBUF` is read back whole. -/
theorem readReg_ibuf_writeIbufWord (j : Fin 4) (v : Word) (s : State) :
    readReg (.ibuf j) (writeIbufWord j v s) = some v := by
  have h0 : ibufByte (writeIbufWord j v s) (4 * j) = v.extractLsb' 0 8 := ibufByte_writeIbufWord j v s (d := 0) (by decide)
  rw [readReg_ibuf, h0, ibufByte_writeIbufWord j v s (d := 1) (by decide),
    ibufByte_writeIbufWord j v s (d := 2) (by decide), ibufByte_writeIbufWord j v s (d := 3) (by decide)]
  exact congrArg some (rgba_samples v)

/-- Settles O26: the four lanes are one byte law of `writeIbufWord`, and a read packs the four bytes. -/
theorem ibufWordsAreLittleEndian : Obligations.IbufWordsAreLittleEndian := by
  constructor
  · intro s j v rest hj hp
    have hbyte := writeIbufWord_getElem? ⟨j, hj⟩ v { s with program := rest }
    have hlane {d : Nat} (hd : d < 4) : (writeIbufWord ⟨j, hj⟩ v { s with program := rest }).ibuf[4 * j + d]? =
        some (v.extractLsb' (8 * d) 8) := by
      rw [hbyte, if_pos (by simp only; omega)]
      congr; omega
    exact ⟨_, step_writeReg (.ibuf ⟨j, hj⟩) hp rfl, by simp only [answered, writeIbufWord], hlane (d := 0) (by decide),
      hlane (d := 1) (by decide), hlane (d := 2) (by decide), hlane (d := 3) (by decide),
      fun k hk => (hbyte k).trans (if_neg hk),
      readAnswer_of_readReg (.ibuf ⟨j, hj⟩) (readReg_ibuf_writeIbufWord ⟨j, hj⟩ v _)⟩
  · intro s j hj
    exact ⟨_, readAnswer_of_readReg (.ibuf ⟨j, hj⟩) (readReg_ibuf ⟨j, hj⟩ s), packBytes_toNat ..⟩

/-! ### The output registers (R57) -/

/-- `packBytes_byte` at any of the four places. -/
theorem packBytes_extractLsb' (b : Fin 4 → Byte) (k : Fin 4) :
    (packBytes (b 0) (b 1) (b 2) (b 3)).extractLsb' (8 * k) 8 = b k := by
  obtain ⟨h0, h1, h2, h3⟩ := packBytes_byte (b 0) (b 1) (b 2) (b 3)
  match k with
  | 0 => exact h0
  | 1 => exact h1
  | 2 => exact h2
  | 3 => exact h3

/-- Settles O27: each output register reads its entry, and the two words of `ALUT` pack four bytes each. -/
theorem outputRegistersRead : Obligations.OutputRegistersRead := by
  intro s
  refine ⟨fun n hn => readAnswer_of_readReg (.obuf ⟨n, hn⟩) rfl, fun i hi => readAnswer_of_readReg (.clut ⟨i, hi⟩) rfl,
    fun i hi => ?_, packBytes_toNat⟩
  by_cases hlow : i < 4
  · have hdiv : i / 4 = 0 := by omega
    have hmod : i % 4 = i := by omega
    rw [hdiv, hmod]
    exact ⟨_, readAnswer_of_readReg .alutLo rfl,
      packBytes_extractLsb' (fun k => alutByte s (k.castLE (by decide))) ⟨i, hlow⟩⟩
  · obtain ⟨k, rfl⟩ : ∃ k : Fin 4, i = 4 + k := ⟨⟨i - 4, by omega⟩, by simp only; omega⟩
    have hdiv : (4 + k.val) / 4 = 1 := by omega
    have hmod : (4 + k.val) % 4 = k := by omega
    rw [hdiv, hmod]
    exact ⟨_, readAnswer_of_readReg .alutHi rfl, packBytes_extractLsb' (fun k => alutByte s (k.natAdd 4)) k⟩

end Sys2Proof.Machine
end

section
/-! PROOFS. The encoding (30_encoding.md): the fields of a word, the formats, the decoder against the encoder and against the
opcode table, with the obligations on them. -/

namespace Sys2Proof.Machine

/-! ### The fields of a word as numbers (R73, R74) -/

theorem opcOf_toNat (w : Word) : (opcOf w).toNat = w.toNat % 256 := by
  simp [opcOf]

theorem srcOf_toNat (w : Word) : (srcOf w).toNat = w.toNat / 2 ^ 8 % 2 ^ 4 := by
  simp [srcOf, Nat.shiftRight_eq_div_pow]

theorem dstOf_toNat (w : Word) : (dstOf w).toNat = w.toNat / 2 ^ 12 % 2 ^ 4 := by
  simp [dstOf, Nat.shiftRight_eq_div_pow]

theorem polOf_toNat (w : Word) : (polOf w).toNat = w.toNat / 2 ^ 16 % 2 := by
  simp [polOf, Nat.shiftRight_eq_div_pow]

theorem zeroOf_toNat (w : Word) : (zeroOf w).toNat = w.toNat / 2 ^ 17 := by
  rw [zeroOf, BitVec.extractLsb'_toNat, Nat.shiftRight_eq_div_pow]
  exact Nat.mod_eq_of_lt (by omega)

section
variable (opc : BitVec 8) (src dst : BitVec 4) (pol : BitVec 1)

theorem wordOfFields_toNat : (wordOfFields opc src dst pol).toNat =
    opc.toNat + src.toNat * 0x100 + dst.toNat * 0x1000 + pol.toNat * 0x10000 := by
  rw [wordOfFields, BitVec.toNat_ofNat]
  exact Nat.mod_eq_of_lt (by omega)

@[simp] theorem opcOf_wordOfFields : opcOf (wordOfFields opc src dst pol) = opc := by
  apply BitVec.eq_of_toNat_eq
  rw [opcOf_toNat, wordOfFields_toNat]
  omega

@[simp] theorem srcOf_wordOfFields : srcOf (wordOfFields opc src dst pol) = src := by
  apply BitVec.eq_of_toNat_eq
  rw [srcOf_toNat, wordOfFields_toNat]
  omega

@[simp] theorem dstOf_wordOfFields : dstOf (wordOfFields opc src dst pol) = dst := by
  apply BitVec.eq_of_toNat_eq
  rw [dstOf_toNat, wordOfFields_toNat]
  omega

@[simp] theorem polOf_wordOfFields : polOf (wordOfFields opc src dst pol) = pol := by
  apply BitVec.eq_of_toNat_eq
  rw [polOf_toNat, wordOfFields_toNat]
  omega

@[simp] theorem zeroOf_wordOfFields : zeroOf (wordOfFields opc src dst pol) = 0#15 := by
  apply BitVec.eq_of_toNat_eq
  rw [zeroOf_toNat, wordOfFields_toNat, BitVec.toNat_ofNat]
  omega

end

/-! ### The decoder and the encoder (R80) -/

@[simp] theorem policyOfBit_policyBit (pol : Policy) : policyOfBit (policyBit pol) = pol := by
  cases pol <;> rfl

theorem decode_encode {i : Instr} (h : i.wellFormed = true) : decode (encode i) = .command i := by
  cases i with
  | pix src dst => simp [decode, encode, checked, formatPOk]
  | lutc src pol => simp [decode, encode, checked, formatCOk]
  | luta src => simp [decode, encode, checked, formatSOk, formatPOk]
  | reservedTag8To15 tag =>
    rw [Instr.wellFormed] at h
    revert tag; decide
  | nop | dxt1 | dxt2 | dxt3 | dxt4 | dxt5 | dx10 | reservedTag0 | reservedTag7 => decide

/-- The word a command decodes from is its own, so only the tag numbers are left to look at. -/
theorem wellFormed_of_decode {w : Word} {i : Instr} (h : decode w = .command i) : i.wellFormed = true := by
  rw [← encode_of_decode h] at h
  cases i with
  | reservedTag8To15 tag => revert tag; decide
  | _ => rfl

theorem decode_eq_command_iff {w : Word} {i : Instr} :
    decode w = .command i ↔ i.wellFormed = true ∧ encode i = w := by
  constructor
  · exact fun h => ⟨wellFormed_of_decode h, encode_of_decode h⟩
  · rintro ⟨hwf, rfl⟩
    exact decode_encode hwf

theorem decode_command_unique {w w' : Word} {i : Instr} (h : decode w = .command i) (h' : decode w' = .command i) :
    w = w' :=
  (encode_of_decode h).symm.trans (encode_of_decode h')

/-- Settles O1: a word built from fields reads back as those fields, and its format's other bits are zero. -/
theorem decodeOfEncode : Obligations.DecodeOfEncode := fun _ => decode_encode

/-- Settles O2: the decoder's format checks leave no bit of the word unread, and it answers only tags of the row. -/
theorem encodeOfDecode : Obligations.EncodeOfDecode := fun _ _ => decode_eq_command_iff.1

/-- Settles O6: ten closed words. -/
theorem writtenOutWordsDecode : Obligations.WrittenOutWordsDecode := by
  unfold Obligations.WrittenOutWordsDecode
  decide

/-! ### The rows of the opcode table (R77) -/

/-- A field under the mask holds the row's value. -/
theorem OpcodeRow.field_of_holds {r : OpcodeRow} {w : Word} {k n : Nat} {v : BitVec n} (h : r.holds w = true)
    (hr : r.mask.extractLsb' k n = BitVec.allOnes n ∧ r.value.extractLsb' k n = v) : w.extractLsb' k n = v := by
  obtain ⟨hmask, hvalue⟩ := hr
  have hw : w &&& r.mask = r.value := of_decide_eq_true h
  rw [← hvalue, ← hw, BitVec.extractLsb'_and, hmask, BitVec.and_allOnes]

/-- A row whose mask is full holds one word. -/
theorem OpcodeRow.eq_of_holds {r : OpcodeRow} {v w : Word} (h : r.holds w = true)
    (hr : r.mask = BitVec.allOnes 32 ∧ r.value = v) : v = w := by
  obtain ⟨hmask, hvalue⟩ := hr
  have hw : w &&& r.mask = r.value := of_decide_eq_true h
  rw [← hvalue, ← hw, hmask, BitVec.and_allOnes]

theorem opcodeRow_holds_encode {i : Instr} (h : i.wellFormed = true) : (opcodeRow i).holds (encode i) = true := by
  cases i with
  | pix src dst => revert src dst; decide
  | lutc src pol => revert src; cases pol <;> decide
  | luta src => revert src; decide
  | reservedTag8To15 tag =>
    rw [Instr.wellFormed] at h
    revert tag; decide
  | nop | dxt1 | dxt2 | dxt3 | dxt4 | dxt5 | dx10 | reservedTag0 | reservedTag7 => decide

theorem encode_reservedTag8To15_toNat (tag : BitVec 4) : (encode (.reservedTag8To15 tag)).toNat = 16 + tag.toNat := by
  revert tag; decide

/-- Each word of a row is the word of a command of that row: its operands are the bits the mask leaves free. -/
theorem exists_encode_of_holds {i : Instr} {w : Word} (h : (opcodeRow i).holds w = true) :
    ∃ j, j.wellFormed = true ∧ encode j = w ∧ opcodeRow j = opcodeRow i := by
  cases i with
  | pix src dst =>
    simp only [opcodeRow] at h
    have hopc : opcOf w = 0x01#8 := OpcodeRow.field_of_holds h (by decide)
    have hpol : polOf w = 0#1 := OpcodeRow.field_of_holds h (by decide)
    have hzero : zeroOf w = 0#15 := OpcodeRow.field_of_holds h (by decide)
    refine ⟨.pix (srcOf w) (dstOf w), rfl, ?_, rfl⟩
    simpa only [encode, hopc, hpol] using wordOfFields_fields hzero
  | lutc src pol =>
    simp only [opcodeRow] at h
    have hopc : opcOf w = 0x02#8 := OpcodeRow.field_of_holds h (by decide)
    have hdst : dstOf w = 0#4 := OpcodeRow.field_of_holds h (by decide)
    have hzero : zeroOf w = 0#15 := OpcodeRow.field_of_holds h (by decide)
    refine ⟨.lutc (srcOf w) (policyOfBit (polOf w)), rfl, ?_, rfl⟩
    simpa only [encode, policyBit_policyOfBit, hopc, hdst] using wordOfFields_fields hzero
  | luta src =>
    simp only [opcodeRow] at h
    have hopc : opcOf w = 0x03#8 := OpcodeRow.field_of_holds h (by decide)
    have hdst : dstOf w = 0#4 := OpcodeRow.field_of_holds h (by decide)
    have hpol : polOf w = 0#1 := OpcodeRow.field_of_holds h (by decide)
    have hzero : zeroOf w = 0#15 := OpcodeRow.field_of_holds h (by decide)
    refine ⟨.luta (srcOf w), rfl, ?_, rfl⟩
    simpa only [encode, hopc, hdst, hpol] using wordOfFields_fields hzero
  | reservedTag8To15 tag =>
    simp only [opcodeRow] at h
    have hupper : w.extractLsb' 3 29 = 3#29 := OpcodeRow.field_of_holds h (by decide)
    have hdiv : w.toNat / 2 ^ 3 % 2 ^ 29 = 3 := by
      simpa [BitVec.extractLsb'_toNat, Nat.shiftRight_eq_div_pow] using congrArg BitVec.toNat hupper
    have htag : (w.extractLsb' 0 4).toNat = w.toNat % 2 ^ 4 := by simp
    refine ⟨.reservedTag8To15 (w.extractLsb' 0 4), decide_eq_true ?_, BitVec.eq_of_toNat_eq ?_, rfl⟩
    · omega
    · rw [encode_reservedTag8To15_toNat]
      omega
  | nop | dxt1 | dxt2 | dxt3 | dxt4 | dxt5 | dx10 | reservedTag0 | reservedTag7 =>
    refine ⟨_, ?_, OpcodeRow.eq_of_holds h ?_, rfl⟩ <;> decide

/-- Settles O3: a command's word is in its row, and the words of a row are words of commands of the row. -/
theorem decoderAgreesWithOpcodeTable : Obligations.DecoderAgreesWithOpcodeTable := by
  refine fun w => ⟨fun i hd => ?_, fun i hrow => ?_⟩
  · rw [← encode_of_decode hd]
    exact opcodeRow_holds_encode (wellFormed_of_decode hd)
  · obtain ⟨j, hwf, rfl, hj⟩ := exists_encode_of_holds hrow
    exact ⟨j, decode_encode hwf, hj⟩

end Sys2Proof.Machine
end

section
/-! PROOFS. Which words are illegal or do nothing, and what a host write to `CMD` does as a step (30_encoding.md R70, R71, R78,
R79), with the obligations on them. -/

namespace Sys2Proof.Machine

/-! ### The illegal words in numbers (R78, R79) -/

theorem formatPOk_iff (w : Word) : formatPOk w = true ↔ w.toNat / 2 ^ 16 = 0 := by
  simp only [formatPOk, Bool.and_eq_true, decide_eq_true_eq, ← BitVec.toNat_inj, zeroOf_toNat, polOf_toNat,
    BitVec.toNat_ofNat]
  omega

theorem formatCOk_iff (w : Word) : formatCOk w = true ↔ w.toNat / 2 ^ 17 = 0 ∧ w.toNat / 2 ^ 12 % 16 = 0 := by
  simp only [formatCOk, Bool.and_eq_true, decide_eq_true_eq, ← BitVec.toNat_inj, zeroOf_toNat, dstOf_toNat,
    BitVec.toNat_ofNat]
  omega

theorem formatSOk_iff (w : Word) : formatSOk w = true ↔ w.toNat / 2 ^ 12 = 0 := by
  simp only [formatSOk, Bool.and_eq_true, decide_eq_true_eq, formatPOk_iff, ← BitVec.toNat_inj, dstOf_toNat,
    BitVec.toNat_ofNat]
  omega

theorem formatZOk_iff (w : Word) : formatZOk w = true ↔ w.toNat / 2 ^ 8 = 0 := by
  simp only [formatZOk, Bool.and_eq_true, decide_eq_true_eq, formatSOk_iff, ← BitVec.toNat_inj, srcOf_toNat,
    BitVec.toNat_ofNat]
  omega

theorem opcOf_eq_iff (w : Word) (opc : BitVec 8) : opcOf w = opc ↔ w.toNat % 256 = opc.toNat := by
  rw [← BitVec.toNat_inj, opcOf_toNat]

theorem opcOf_tag_iff (w : Word) : (opcOf w).extractLsb' 4 4 = 0x1#4 ↔ 16 ≤ w.toNat % 256 ∧ w.toNat % 256 ≤ 31 := by
  rw [← BitVec.toNat_inj, BitVec.extractLsb'_toNat, opcOf_toNat, Nat.shiftRight_eq_div_pow, BitVec.toNat_ofNat]
  omega

theorem exists_checked_eq_illegal (ok : Bool) (i : Instr) : (∃ why, checked ok i = .illegal why) ↔ ¬ ok = true := by
  cases ok <;> simp [checked]

theorem exists_decode_illegal_iff (w : Word) : (∃ why, decode w = .illegal why) ↔
    (4 ≤ w.toNat % 256 ∧ w.toNat % 256 ≤ 15) ∨ 32 ≤ w.toNat % 256 ∨
    ((w.toNat % 256 = 0 ∨ (16 ≤ w.toNat % 256 ∧ w.toNat % 256 ≤ 31)) ∧ w.toNat / 2 ^ 8 ≠ 0) ∨
    (w.toNat % 256 = 1 ∧ w.toNat / 2 ^ 16 ≠ 0) ∨
    (w.toNat % 256 = 2 ∧ (w.toNat / 2 ^ 17 ≠ 0 ∨ w.toNat / 2 ^ 12 % 16 ≠ 0)) ∨
    (w.toNat % 256 = 3 ∧ w.toNat / 2 ^ 12 ≠ 0) := by
  simp only [decode, opcOf_eq_iff, opcOf_tag_iff, BitVec.toNat_ofNat]
  split
  case isTrue => rw [exists_checked_eq_illegal, formatZOk_iff]; omega
  split
  case isTrue => rw [exists_checked_eq_illegal, formatPOk_iff]; omega
  split
  case isTrue => rw [exists_checked_eq_illegal, formatCOk_iff]; omega
  split
  case isTrue => rw [exists_checked_eq_illegal, formatSOk_iff]; omega
  split
  case isTrue => rw [exists_checked_eq_illegal, formatZOk_iff]; omega
  case isFalse => simp only [Decoded.illegal.injEq, exists_eq', true_iff]; omega

/-! ### The zero word is the only one that does nothing -/

/-- Entry 0 of a colour table is opaque. -/
theorem colourTableAt_ne_zero (s : State) (k : Nat) (pol : Policy) (ae : Bool) :
    colourTableAt s k pol ae ≠ Vector.replicate 4 0#32 := by
  intro h
  have halpha : 255#8 = sampleA 0#32 := by
    simpa only [colourTableAt, colourLUT_entry0, sampleA_withAlpha, Vector.getElem_replicate] using
      congrArg (fun table => sampleA table[0]) h
  exact absurd halpha (by decide)

/-- An alpha table starts above 0 or ends with 255. -/
theorem alphaLUT_ne_zero (a0 a1 : Byte) : alphaLUT a0 a1 ≠ Vector.replicate 8 0#8 := by
  intro h
  unfold alphaLUT at h
  split at h
  case isTrue hlt =>
    have h0 : a0 = 0#8 := by simpa using congrArg (·[0]) h
    simp [h0] at hlt
  case isFalse =>
    have h7 : 255#8 = 0#8 := by simpa using congrArg (·[7]) h
    exact absurd h7 (by decide)

/-- From the reset state each command but `NOP` latches a fault or writes a table that is not zero. -/
theorem eq_nop_of_exec_reset {i : Instr} (h : exec i State.reset = .next State.reset) : i = .nop := by
  cases i with
  | nop => rfl
  | pix | dx10 | reservedTag0 | reservedTag7 | reservedTag8To15 =>
    cases congrArg State.fault (Host.Outcome.next.inj h)
  | lutc src pol =>
    simp only [exec, execLutc] at h
    split at h
    · cases congrArg State.fault (Host.Outcome.next.inj h)
    · exact (colourTableAt_ne_zero _ _ _ _ (congrArg State.clut (Host.Outcome.next.inj h))).elim
  | luta src =>
    simp only [exec, execLuta] at h
    split at h
    · cases congrArg State.fault (Host.Outcome.next.inj h)
    · exact (alphaLUT_ne_zero _ _ (congrArg State.alut (Host.Outcome.next.inj h))).elim
  | dxt1 | dxt2 | dxt3 | dxt4 | dxt5 =>
    exact (colourTableAt_ne_zero _ _ _ _ (congrArg State.clut (Host.Outcome.next.inj h))).elim

theorem runCommand_does_nothing_iff (w : Word) :
    (∀ s : State, s.fault = false → runCommand w s = .next s) ↔ w = 0#32 := by
  constructor
  · intro h
    obtain ⟨hf, -⟩ | ⟨-, -, heq⟩ | ⟨-, i, hd, hx⟩ := runCommand_cases (h State.reset rfl)
    · cases hf
    · cases congrArg State.fault heq
    · rw [← encode_of_decode hd, eq_nop_of_exec_reset hx]
      decide
  · rintro rfl s hf
    exact runCommand_decoded (i := .nop) hf (by decide)

/-- Settles O4: the decoder's branches as numbers, the fault entry, and the reset state, which every command but `NOP`
changes. -/
theorem illegalWordsRaiseIllegalCommand : Obligations.IllegalWordsRaiseIllegalCommand :=
  ⟨exists_decode_illegal_iff, fun _ _ _ hd hf => runCommand_illegal hf hd, runCommand_does_nothing_iff,
    fun _ _ _ => decode_command_unique⟩

/-! ### A host write to `CMD` as a step (R70, R71) -/

theorem step_commandWrite {s : State} {w : Word} {rest : List HostAction} (hp : s.program = commandWrite w :: rest) :
    step s = runCommand w (answered .done { s with program := rest }) := by
  rw [step_action hp, performAction_commandWrite]

theorem step_withFetchWord (s : State) (w : Word) :
    step (s.withFetchWord 32 w.toNat) = runCommand w (answered .done s) := by
  have hw : BitVec.ofNat 32 (w.toNat % 2 ^ 32) = w := by
    rw [Nat.mod_eq_of_lt w.isLt, BitVec.ofNat_toNat, BitVec.setWidth_eq]
  have hp : (s.withFetchWord 32 w.toNat).program = commandWrite w :: s.program :=
    congrArg (commandWrite · :: s.program) hw
  exact step_commandWrite hp

/-- Settles O7: the step hands the word to the gate, which is open. -/
theorem stepRunsDecodedCommand : Obligations.StepRunsDecodedCommand := by
  refine ⟨fun s w rest i hp hf hd => ?_, fun s i hwf hf => ?_⟩
  · exact (step_commandWrite hp).trans (runCommand_decoded hf hd)
  · exact (step_withFetchWord s _).trans (runCommand_decoded hf (decode_encode hwf))

/-- Settles O8: the three cases of the gate and the decoder, after the step's bookkeeping. -/
theorem gateDropsCommandsWhileFaulted : Obligations.GateDropsCommandsWhileFaulted := by
  intro s w rest hp
  rw [step_commandWrite hp]
  exact ⟨fun hf => runCommand_faulted w hf, fun hf _ hd => runCommand_decoded hf hd,
    fun hf _ hd => runCommand_illegal hf hd⟩

end Sys2Proof.Machine
end

section
/-! PROOFS. The complete list of legal words (30_encoding.md R81): the commands in the order of the list, their words, how many
there are, and what each class of words does to a block with no fault latched. -/

namespace Sys2Proof.Machine

/-! ### The commands of the list -/

/-- Every value of a four-bit operand, in order. -/
def nibbles : List (BitVec 4) := (List.range 16).map (BitVec.ofNat 4)

theorem mem_nibbles (v : BitVec 4) : v ∈ nibbles := by
  revert v; decide

theorem nibbles_nodup : nibbles.Nodup := by decide

def pixCommands : List Instr := (nibbles ×ˢ nibbles).map fun p => .pix p.1 p.2

def lutcCommands : List Instr := (nibbles ×ˢ [Policy.four, .dxt1]).map fun p => .lutc p.1 p.2

def lutaCommands : List Instr := nibbles.map .luta

/-- The commands that execute, in the order of R81. -/
def executingCommands : List Instr :=
  [.nop] ++ pixCommands ++ lutcCommands ++ lutaCommands ++ [.dxt1, .dxt2, .dxt3, .dxt4, .dxt5]

/-- The commands that name an unsupported tag, in the order of R81. -/
def unsupportedCommands : List Instr :=
  [.reservedTag0, .dx10, .reservedTag7] ++ (nibbles.filter reservedTagInRow).map .reservedTag8To15

theorem mem_pixCommands (i : Instr) : i ∈ pixCommands ↔ ∃ src dst, i = .pix src dst := by
  simp [pixCommands, mem_nibbles, eq_comm]

theorem mem_lutcCommands (i : Instr) : i ∈ lutcCommands ↔ ∃ src pol, i = .lutc src pol := by
  have hpol : ∀ pol : Policy, pol = .four ∨ pol = .dxt1 := by rintro (_ | _) <;> simp
  simp [lutcCommands, mem_nibbles, hpol, eq_comm]

theorem mem_lutaCommands (i : Instr) : i ∈ lutaCommands ↔ ∃ src, i = .luta src := by
  simp [lutaCommands, mem_nibbles, eq_comm]

theorem mem_executingCommands (i : Instr) : i ∈ executingCommands ↔
    i = .nop ∨ (∃ src dst, i = .pix src dst) ∨ (∃ src pol, i = .lutc src pol) ∨ (∃ src, i = .luta src) ∨
      i = .dxt1 ∨ i = .dxt2 ∨ i = .dxt3 ∨ i = .dxt4 ∨ i = .dxt5 := by
  simp [executingCommands, mem_pixCommands, mem_lutcCommands, mem_lutaCommands]

theorem mem_unsupportedCommands (i : Instr) : i ∈ unsupportedCommands ↔
    i.wellFormed = true ∧ .unsupportedCompression ∈ commandFaults i := by
  cases i <;> simp [unsupportedCommands, mem_nibbles, commandFaults, Instr.wellFormed]

theorem wellFormed_iff_mem (i : Instr) : i.wellFormed = true ↔ i ∈ executingCommands ∨ i ∈ unsupportedCommands := by
  rw [mem_executingCommands, mem_unsupportedCommands]
  cases i <;> simp [Instr.wellFormed, commandFaults]

/-- No command is in both lists: an executing one never faults for its tag. -/
theorem executingCommands_disjoint_unsupportedCommands : executingCommands.Disjoint unsupportedCommands := by
  intro i hx hu
  rw [mem_executingCommands] at hx
  rw [mem_unsupportedCommands] at hu
  obtain rfl | ⟨src, dst, rfl⟩ | ⟨src, pol, rfl⟩ | ⟨src, rfl⟩ | rfl | rfl | rfl | rfl | rfl := hx <;>
    simp [commandFaults] at hu

/-- The operands tell two commands of one kind apart, the constructors those of two kinds. -/
theorem executingCommands_nodup : executingCommands.Nodup := by
  have hpix : pixCommands.Nodup :=
    (nibbles_nodup.product nibbles_nodup).map fun p q h => by simpa [Prod.ext_iff] using h
  have hpol : [Policy.four, .dxt1].Nodup := by decide
  have hlutc : lutcCommands.Nodup := (nibbles_nodup.product hpol).map fun p q h => by simpa [Prod.ext_iff] using h
  have hluta : lutaCommands.Nodup := nibbles_nodup.map fun p q h => by simpa using h
  simp only [executingCommands, List.nodup_append', hpix, hlutc, hluta, List.disjoint_left, List.mem_append,
    mem_pixCommands, mem_lutcCommands, mem_lutaCommands]
  grind

theorem unsupportedCommands_nodup : unsupportedCommands.Nodup := by decide

/-! ### The words of the list -/

/-- R81's list of executing words, as the obligation writes it. -/
def executingWords : List Word :=
  [0x00000000#32] ++
    ((List.range 16).flatMap fun src => (List.range 16).map fun dst =>
      BitVec.ofNat 32 (0x00000001 + src * 0x100 + dst * 0x1000)) ++
    ((List.range 16).flatMap fun src => (List.range 2).map fun pol =>
      BitVec.ofNat 32 (0x00000002 + src * 0x100 + pol * 0x10000)) ++
    ((List.range 16).map fun src => BitVec.ofNat 32 (0x00000003 + src * 0x100)) ++
    [0x00000011#32, 0x00000012#32, 0x00000013#32, 0x00000014#32, 0x00000015#32]

/-- R81's list of words that name an unsupported tag, as the obligation writes it. -/
def unsupportedWords : List Word := [0x00000010#32] ++ (List.range 10).map fun k => BitVec.ofNat 32 (0x00000016 + k)

theorem map_encode_pixCommands : pixCommands.map encode =
    (List.range 16).flatMap fun src => (List.range 16).map fun dst =>
      BitVec.ofNat 32 (0x00000001 + src * 0x100 + dst * 0x1000) := by
  simp only [pixCommands, nibbles, SProd.sprod, List.product, List.map_flatMap, List.flatMap_map, List.map_map]
  refine List.flatMap_congr fun src hsrc => List.map_congr_left fun dst hdst => ?_
  rw [List.mem_range] at hsrc hdst
  simp [encode, wordOfFields, Nat.mod_eq_of_lt, hsrc, hdst]

theorem map_encode_lutcCommands : lutcCommands.map encode =
    (List.range 16).flatMap fun src => (List.range 2).map fun pol =>
      BitVec.ofNat 32 (0x00000002 + src * 0x100 + pol * 0x10000) := by decide

theorem map_encode_lutaCommands : lutaCommands.map encode =
    (List.range 16).map fun src => BitVec.ofNat 32 (0x00000003 + src * 0x100) := by decide

theorem map_encode_executingCommands : executingCommands.map encode = executingWords := by
  simp only [executingCommands, List.map_append, map_encode_pixCommands, map_encode_lutcCommands,
    map_encode_lutaCommands]
  rfl

theorem map_encode_unsupportedCommands : unsupportedCommands.map encode = unsupportedWords := by decide

/-- Well-formed commands have different words, since the decoder gives each back. -/
theorem nodup_map_encode {cmds : List Instr} (hwf : ∀ i ∈ cmds, i.wellFormed = true) (h : cmds.Nodup) :
    (cmds.map encode).Nodup :=
  h.map_on fun i hi j hj heq => by
    simpa [decode_encode (hwf i hi), decode_encode (hwf j hj)] using congrArg decode heq

theorem mem_map_encode_iff {cmds : List Instr} (hwf : ∀ i ∈ cmds, i.wellFormed = true) (w : Word) :
    w ∈ cmds.map encode ↔ ∃ i, decode w = .command i ∧ i ∈ cmds := by
  rw [List.mem_map]
  refine exists_congr fun i => ⟨?_, ?_⟩
  · rintro ⟨hi, rfl⟩
    exact ⟨decode_encode (hwf i hi), hi⟩
  · rintro ⟨hd, hi⟩
    exact ⟨hi, encode_of_decode hd⟩

theorem mem_executingWords (w : Word) : w ∈ executingWords ↔ ∃ i, decode w = .command i ∧ i ∈ executingCommands := by
  rw [← map_encode_executingCommands]
  exact mem_map_encode_iff (fun i hi => (wellFormed_iff_mem i).2 (.inl hi)) w

theorem mem_unsupportedWords (w : Word) :
    w ∈ unsupportedWords ↔ ∃ i, decode w = .command i ∧ i ∈ unsupportedCommands := by
  rw [← map_encode_unsupportedCommands]
  exact mem_map_encode_iff (fun i hi => (wellFormed_iff_mem i).2 (.inr hi)) w

/-- A word is in neither list exactly when it is illegal. -/
theorem not_mem_words_iff (w : Word) :
    (w ∉ executingWords ∧ w ∉ unsupportedWords) ↔ ∃ why, decode w = .illegal why := by
  rw [mem_executingWords, mem_unsupportedWords]
  cases hd : decode w with
  | illegal why => simp
  | command i =>
    have hi := (wellFormed_iff_mem i).1 (wellFormed_of_decode hd)
    simp only [Decoded.command.injEq, exists_eq_left', reduceCtorEq]
    tauto

theorem words_nodup : (executingWords ++ unsupportedWords).Nodup := by
  rw [← map_encode_executingCommands, ← map_encode_unsupportedCommands, ← List.map_append]
  refine nodup_map_encode (fun i hi => (wellFormed_iff_mem i).2 (List.mem_append.1 hi)) ?_
  exact executingCommands_nodup.append unsupportedCommands_nodup executingCommands_disjoint_unsupportedCommands

theorem executingWords_length : executingWords.length = 310 := by
  simp [executingWords]

theorem natCard_not_mem {words : List Word} (h : words.Nodup) :
    Nat.card { w : Word // w ∉ words } = 2 ^ 32 - words.length := by
  calc Nat.card { w : Word // w ∉ words } = Fintype.card { w : Word // w ∉ words.toFinset } := by
        simp only [Nat.card_eq_fintype_card, List.mem_toFinset]
    _ = Fintype.card Word - Fintype.card { w : Word // w ∈ words.toFinset } := Fintype.card_subtype_compl _
    _ = 2 ^ 32 - words.length := by
        rw [Fintype.card_coe, List.toFinset_card_of_nodup h, ← FinEnum.card_eq_fintypeCard, FinEnum.card_bitVec]

theorem natCard_not_mem_words : Nat.card { w : Word // w ∉ executingWords ∧ w ∉ unsupportedWords } = 2 ^ 32 - 321 := by
  simpa [executingWords_length, unsupportedWords] using natCard_not_mem words_nodup

/-! ### What a word does with no fault latched -/

theorem faultBits_injective : Function.Injective faultBits := by
  intro c c' h
  cases c <;> cases c' <;> simp [faultBits] at h ⊢

/-- The code a word raises is one of its causes. -/
theorem mem_possibleFaults_of_raise {w : Word} {c : FaultCode} {s : State} (hf : s.fault = false)
    (h : runCommand w s = .next (raiseFault c w s)) : c ∈ possibleFaults w := by
  obtain ⟨hfault, -⟩ | ⟨-, c', hc', heq⟩ := runCommand_latch h
  · simp [hf] at hfault
  · rwa [faultBits_injective (congrArg State.fcode heq)]

theorem exec_of_unsupported {i : Instr} (h : .unsupportedCompression ∈ commandFaults i) (s : State) :
    exec i s = .next (raiseFault .unsupportedCompression (encode i) s) := by
  cases i with
  | dx10 | reservedTag0 | reservedTag7 | reservedTag8To15 => rfl
  | nop | pix | lutc | luta | dxt1 | dxt2 | dxt3 | dxt4 | dxt5 => simp [commandFaults] at h

theorem illegalCommand_not_mem_commandFaults (i : Instr) : .illegalCommand ∉ commandFaults i := by
  cases i <;> simp [commandFaults]

theorem runCommand_unsupported_iff (w : Word) :
    (∀ s : State, s.fault = false → runCommand w s = .next (raiseFault .unsupportedCompression w s)) ↔
      ∃ i, decode w = .command i ∧ i ∈ unsupportedCommands := by
  constructor
  · intro h
    have hc := mem_possibleFaults_of_raise rfl (h State.reset rfl)
    cases hd : decode w with
    | illegal why => simp [possibleFaults_illegal hd] at hc
    | command i =>
      rw [possibleFaults_command hd] at hc
      exact ⟨i, rfl, (mem_unsupportedCommands i).2 ⟨wellFormed_of_decode hd, hc⟩⟩
  · rintro ⟨i, hd, hi⟩ s hf
    obtain ⟨-, hc⟩ := (mem_unsupportedCommands i).1 hi
    rw [runCommand_decoded hf hd, exec_of_unsupported hc, encode_of_decode hd]

theorem runCommand_illegal_iff (w : Word) :
    (∀ s : State, s.fault = false → runCommand w s = .next (raiseFault .illegalCommand w s)) ↔
      ∃ why, decode w = .illegal why := by
  constructor
  · intro h
    have hc := mem_possibleFaults_of_raise rfl (h State.reset rfl)
    cases hd : decode w with
    | illegal why => exact ⟨why, rfl⟩
    | command i => exact (illegalCommand_not_mem_commandFaults i (possibleFaults_command hd ▸ hc)).elim
  · rintro ⟨why, hd⟩ s hf
    exact runCommand_illegal hf hd

/-! ### The words command by command -/

theorem decode_eq_command_iff_eq {i : Instr} {v : Word} (h : i.wellFormed = true ∧ encode i = v) (w : Word) :
    decode w = .command i ↔ w = v := by
  obtain ⟨hwf, rfl⟩ := h
  simp [decode_eq_command_iff, hwf, eq_comm]

theorem decode_eq_command_iff_toNat {i : Instr} {n : Nat} (hwf : i.wellFormed = true) (hn : (encode i).toNat = n)
    (w : Word) : decode w = .command i ↔ w.toNat = n := by
  rw [decode_eq_command_iff_eq ⟨hwf, rfl⟩, ← BitVec.toNat_inj, hn]

theorem encode_pix_toNat (src dst : BitVec 4) :
    (encode (.pix src dst)).toNat = 0x00000001 + src.toNat * 0x100 + dst.toNat * 0x1000 := by
  simp [encode, wordOfFields_toNat]

theorem encode_lutc_toNat (src : BitVec 4) (pol : Policy) :
    (encode (.lutc src pol)).toNat = 0x00000002 + src.toNat * 0x100 + (if pol = .dxt1 then 1 else 0) * 0x10000 := by
  cases pol <;> simp [encode, wordOfFields_toNat, policyBit]

theorem encode_luta_toNat (src : BitVec 4) : (encode (.luta src)).toNat = 0x00000003 + src.toNat * 0x100 := by
  simp [encode, wordOfFields_toNat]

/-- Settles O5: the two lists are the words of two lists of commands without repeats, which together are the well-formed
commands. -/
theorem legalWordsCounted : Obligations.LegalWordsCounted :=
  ⟨words_nodup.of_append_left, executingWords_length, words_nodup.of_append_right, rfl,
    decode_eq_command_iff_eq (by decide),
    fun w src dst => decode_eq_command_iff_toNat rfl (encode_pix_toNat src dst) w,
    fun w src pol => decode_eq_command_iff_toNat rfl (encode_lutc_toNat src pol) w,
    fun w src => decode_eq_command_iff_toNat rfl (encode_luta_toNat src) w,
    fun w => ⟨decode_eq_command_iff_eq (by decide) w, decode_eq_command_iff_eq (by decide) w,
      decode_eq_command_iff_eq (by decide) w, decode_eq_command_iff_eq (by decide) w,
      decode_eq_command_iff_eq (by decide) w⟩,
    fun w => (mem_executingWords w).trans (exists_congr fun i => and_congr_right' (mem_executingCommands i)),
    fun w => (mem_unsupportedWords w).trans (runCommand_unsupported_iff w).symm,
    fun w => (not_mem_words_iff w).trans (runCommand_illegal_iff w).symm,
    natCard_not_mem_words⟩

end Sys2Proof.Machine
end

section
/-! PROOFS. The obligations on `PIX` (40_pix.md): the value of a lane, contiguous masks and masks above the pixel, and the
one sample a `PIX` inside `IBUF` writes. -/

namespace Sys2Proof.Machine

/-! ### The value of a lane (R90, R94) -/

/-- Settles O35: the two branches of `lane`, the shift down written as a division. -/
theorem laneValue : Obligations.LaneValue := fun word m =>
  ⟨fun hm => hm ▸ lane_zero_mask word, fun hm => by rw [lane_toNat word hm, Nat.shiftRight_eq_div_pow]⟩

/-! ### Contiguous masks (R95, R97) -/

/-- The mask of `n` ones from bit `k` up. -/
def contiguousMask (k n : Nat) : Word := BitVec.ofNat 32 ((2 ^ n - 1) * 2 ^ k)

section Contiguous

variable {k n : Nat} (hkn : k + n ≤ 32)
include hkn

theorem contiguousMask_toNat : (contiguousMask k n).toNat = (2 ^ n - 1) * 2 ^ k := by
  apply Nat.mod_eq_of_lt
  calc (2 ^ n - 1) * 2 ^ k < 2 ^ n * 2 ^ k :=
        Nat.mul_lt_mul_of_pos_right (Nat.sub_one_lt_of_lt n.two_pow_pos) k.two_pow_pos
    _ = 2 ^ (k + n) := by rw [← pow_add, Nat.add_comm]
    _ ≤ 2 ^ 32 := Nat.pow_le_pow_right (by decide) hkn

theorem contiguousMask_getLsbD (i : Nat) : (contiguousMask k n).getLsbD i = true ↔ k ≤ i ∧ i < k + n := by
  rw [BitVec.getLsbD, contiguousMask_toNat hkn, Nat.testBit_mul_two_pow, Nat.testBit_two_pow_sub_one, Bool.and_eq_true,
    decide_eq_true_iff, decide_eq_true_iff]
  omega

theorem popcount32_contiguousMask : popcount32 (contiguousMask k n) = n := by
  have hpositions : (Finset.range 32).filter (fun i => (contiguousMask k n).getLsbD i = true) = Finset.Ico k (k + n) := by
    ext i
    rw [Finset.mem_filter, contiguousMask_getLsbD hkn, Finset.mem_range, Finset.mem_Ico]
    omega
  rw [popcount32_eq_count, Nat.count_eq_card_filter_range, hpositions, Nat.card_Ico, Nat.add_sub_cancel_left]

/-- Masked and shifted down, the word is the field the mask covers. -/
theorem and_contiguousMask_shiftRight (word : Word) :
    (word &&& contiguousMask k n).toNat >>> k = word.toNat / 2 ^ k % 2 ^ n := by
  rw [BitVec.toNat_and, contiguousMask_toNat hkn, Nat.shiftRight_and_distrib, Nat.shiftRight_eq_div_pow,
    Nat.shiftRight_eq_div_pow, Nat.mul_div_cancel _ k.two_pow_pos, Nat.and_two_pow_sub_one_eq_mod]

variable (hn : 1 ≤ n)
include hn

theorem contiguousMask_getLsbD_lowest : (contiguousMask k n).getLsbD k = true :=
  (contiguousMask_getLsbD hkn k).2 ⟨Nat.le_refl k, Nat.lt_add_of_pos_right hn⟩

theorem contiguousMask_ne_zero : contiguousMask k n ≠ 0#32 := by
  intro h
  have hbit := contiguousMask_getLsbD_lowest hkn hn
  simp [h] at hbit

/-- Bit `k` is set, so the lowest set bit is not above it, and no bit below `k` is set. -/
theorem ctz32_contiguousMask : ctz32 (contiguousMask k n) = k := by
  obtain ⟨hle, -⟩ := (contiguousMask_getLsbD hkn _).1 (getLsbD_ctz32 (contiguousMask_ne_zero hkn hn))
  refine Nat.le_antisymm (Nat.le_of_not_lt fun hlt => ?_) hle
  exact Bool.false_ne_true ((getLsbD_of_lt_ctz32 hlt).symm.trans (contiguousMask_getLsbD_lowest hkn hn))

/-- The lane of a contiguous mask rescales its field; the quotient fits 8 bits, so the truncation changes nothing. -/
theorem lane_contiguousMask_toNat (word : Word) :
    (lane word (contiguousMask k n)).toNat = scale (word.toNat / 2 ^ k % 2 ^ n) n := by
  have hle : scale (word.toNat / 2 ^ k % 2 ^ n) n ≤ 255 := scale_le _ n (Nat.mod_lt _ n.two_pow_pos)
  rw [lane_toNat word (contiguousMask_ne_zero hkn hn), ctz32_contiguousMask hkn hn, popcount32_contiguousMask hkn,
    and_contiguousMask_shiftRight hkn]
  exact Nat.mod_eq_of_lt (Nat.lt_succ_of_le hle)

end Contiguous

theorem scale_eight (v : Nat) : scale v 8 = v := Nat.mul_div_cancel v (by decide)

theorem lane_contiguousMask_eight {k : Nat} (hk : k + 8 ≤ 32) (word : Word) :
    lane word (contiguousMask k 8) = word.extractLsb' k 8 := by
  apply BitVec.eq_of_toNat_eq
  rw [lane_contiguousMask_toNat hk (by decide), scale_eight, BitVec.extractLsb'_toNat, Nat.shiftRight_eq_div_pow]

/-- Settles O36: `ctz32` and `popcount32` of the mask are `k` and `n`, the field is below `2 ^ n`, and with `n = 8` the
rescaling multiplies and divides by 255. -/
theorem contiguousMaskRescalesItsField : Obligations.ContiguousMaskRescalesItsField := by
  refine fun k n word hn hkn => ⟨lane_contiguousMask_toNat hkn hn word, ?_⟩
  rintro rfl
  exact lane_contiguousMask_eight hkn word

/-! ### Masks above the pixel (R92, R96) -/

theorem lane_of_and_eq_zero {word m : Word} (h : word &&& m = 0#32) : lane word m = 0#8 := by
  simp [lane, h]

/-- A word below bit `k` and a mask without a bit below bit `k` share no bit. -/
theorem and_eq_zero_of_disjoint {word m : Word} {k : Nat} (hword : word.toNat < 2 ^ k) (hm : m.toNat % 2 ^ k = 0) :
    word &&& m = 0#32 := by
  apply BitVec.eq_of_toNat_eq
  have hlt : word.toNat &&& m.toNat < 2 ^ k := Nat.and_le_left.trans_lt hword
  rw [BitVec.toNat_and, ← Nat.mod_eq_of_lt hlt, Nat.and_mod_two_pow, hm, Nat.and_zero, BitVec.toNat_ofNat, Nat.zero_mod]

theorem pixelWord_lt (s : State) (src : BitVec 4) (h : s.pixelBytes.toNat ≤ 4) :
    (pixelWord s src).toNat < 2 ^ (8 * s.pixelBytes.toNat) := by
  rw [pixelWord_toNat s src h, pow_mul]
  exact memRead_lt s src.toNat s.pixelBytes.toNat

/-- Settles O37: the pixel word lies below bit `8 * PIXEL_BYTES` and the mask above it. -/
theorem maskAbovePixelGivesZero : Obligations.MaskAbovePixelGivesZero := fun s src _ _ hpb hm =>
  lane_of_and_eq_zero (and_eq_zero_of_disjoint (pixelWord_lt s src hpb) hm)

/-! ### The sample `PIX` writes (R91, R92, R93) -/

theorem memRead_eq_sum (s : State) (k n : Nat) :
    memRead s k n = ∑ i ∈ Finset.range n, (ibufByte s (k + i)).toNat * 256 ^ i := by
  induction n generalizing k with
  | zero => rfl
  | succ n ih =>
    rw [memRead_succ, ih, Finset.sum_range_succ', Finset.mul_sum, Nat.add_comm]
    congr 1
    · refine Finset.sum_congr rfl fun i _ => ?_
      rw [Nat.add_right_comm k 1 i, Nat.add_assoc k i 1, pow_succ']
      exact Nat.mul_left_comm ..
    · rw [Nat.add_zero, pow_zero, Nat.mul_one]

/-- `PIX` with a supported byte count and its bytes inside `IBUF` completes: neither fault test fires. -/
theorem exec_pix_of_fits {src : BitVec 4} {s : State} (hpos : 1 ≤ s.pixelBytes.toNat) (hle : s.pixelBytes.toNat ≤ 4)
    (hfits : src.toNat + s.pixelBytes.toNat ≤ 16) (dst : BitVec 4) :
    exec (.pix src dst) s = .next (writeSample dst (pixelSample s (pixelWord s src)) s) := by
  have hok : pixelBytesOk s = true := by simp [pixelBytesOk, hpos, hle]
  have hin : pastIbuf src s.pixelBytes.toNat = false := decide_eq_false (Nat.not_lt.2 hfits)
  simp [exec, execPix, hok, hin]

theorem writeSample_getElem?_self (dst : BitVec 4) (v : Word) (s : State) :
    (writeSample dst v s).obuf[dst.toNat]? = some v := by
  rw [writeSample_obuf, Vector.getElem?_set_self]

/-- No register but the one of the sample written reads it. -/
theorem readAnswer_writeSample {dst : BitVec 4} {off : Nat} (hoff : off ≠ 0x80 + 4 * dst.toNat) (v : Word) (s : State)
    (width : Nat) : readAnswer off width (writeSample dst v s) = readAnswer off width s := by
  cases hacc : accessedReg off width with
  | none => simp only [readAnswer, hacc]
  | some r =>
    obtain ⟨rfl, rfl⟩ := accessedReg_eq_some.1 hacc
    have hread : readReg r (writeSample dst v s) = readReg r s := by
      cases r with
      | obuf n =>
        have hn : dst.toNat ≠ n.val := fun h => hoff (by rw [h, regOffset])
        exact congrArg some (Vector.getElem_set_ne dst.isLt n.isLt hn)
      | ibuf j => simp only [readReg, memRead_congr (writeSample_ibuf dst v s)]
      | _ => rfl
    rw [readAnswer_regOffset, readAnswer_regOffset, hread]

@[simp] theorem sampleR_pixelSample (s : State) (word : Word) : sampleR (pixelSample s word) = lane word s.maskR :=
  sampleR_rgba ..
@[simp] theorem sampleG_pixelSample (s : State) (word : Word) : sampleG (pixelSample s word) = lane word s.maskG :=
  sampleG_rgba ..
@[simp] theorem sampleB_pixelSample (s : State) (word : Word) : sampleB (pixelSample s word) = lane word s.maskB :=
  sampleB_rgba ..
@[simp] theorem sampleA_pixelSample (s : State) (word : Word) : sampleA (pixelSample s word) = lane word s.maskA :=
  sampleA_rgba ..

/-- Settles O38: the step is one `writeSample` of the pixel's four lanes, and the pixel word loses none of its bytes. -/
theorem pixWritesOneSample : Obligations.PixWritesOneSample := by
  intro src dst s hpos hle hfits
  have hexec := exec_pix_of_fits hpos hle hfits dst
  exact ⟨_, pixelWord s src, pixelSample s (pixelWord s src), hexec, (pixelWord_toNat s src hle).trans (memRead_eq_sum ..),
    sampleR_pixelSample .., sampleG_pixelSample .., sampleB_pixelSample .., sampleA_pixelSample .., rfl,
    writeSample_getElem?_self .., fun _ hn => exec_pix_other_sample hexec hn,
    fun _ width hoff => readAnswer_writeSample hoff _ s width⟩

/-- The sample a `PIX` inside `IBUF` leaves at its destination. -/
theorem eq_pixelSample_of_exec_pix {src dst : BitVec 4} {s t : State} {v : Word} (hpos : 1 ≤ s.pixelBytes.toNat)
    (hle : s.pixelBytes.toNat ≤ 4) (hfits : src.toNat + s.pixelBytes.toNat ≤ 16) (h : exec (.pix src dst) s = .next t)
    (hv : t.obuf[dst.toNat]? = some v) : v = pixelSample s (pixelWord s src) := by
  rw [exec_pix_of_fits hpos hle hfits] at h
  cases h
  exact Option.some.inj (hv.symm.trans (writeSample_getElem?_self ..))

/-- Settles O41: both blocks see the same pixel word, and each byte of a sample is the lane of its own mask. -/
theorem lanesAreIndependent : Obligations.LanesAreIndependent := by
  intro src dst s s' t t' v v' hpos hle hfits hbytes hibuf h h' hv hv'
  have hsample := eq_pixelSample_of_exec_pix hpos hle hfits h hv
  rw [hbytes] at hpos hle hfits
  have hsample' := eq_pixelSample_of_exec_pix hpos hle hfits h' hv'
  rw [← pixelWord_congr hibuf hbytes] at hsample'
  subst hsample hsample'
  show (_ → sampleR _ = sampleR _) ∧ (_ → sampleG _ = sampleG _) ∧ (_ → sampleB _ = sampleB _) ∧
    (_ → sampleA _ = sampleA _)
  simp only [sampleR_pixelSample, sampleG_pixelSample, sampleB_pixelSample, sampleA_pixelSample]
  exact ⟨congrArg _, congrArg _, congrArg _, congrArg _⟩

end Sys2Proof.Machine
end

section
/-! PROOFS. The obligations on the interpolation tables (41_lut.md): the entries of the colour and the alpha table as
numbers, their order and symmetries, and what `LUTC` and `LUTA` write. -/

namespace Sys2Proof.Machine

/-! ### Colours whose channels fit 8 bits (R100, R102) -/

/-- No channel of the colour loses a bit when an entry is packed. -/
structure Rgb.Fits (c : Rgb) : Prop where
  r : c.r ≤ 255
  g : c.g ≤ 255
  b : c.b ≤ 255

/-- Each channel of `c` lies between those of `x` and `y`. -/
structure Rgb.Between (c x y : Rgb) : Prop where
  r : min x.r y.r ≤ c.r ∧ c.r ≤ max x.r y.r
  g : min x.g y.g ≤ c.g ∧ c.g ≤ max x.g y.g
  b : min x.b y.b ≤ c.b ∧ c.b ≤ max x.b y.b

theorem unpack565_fits (c : BitVec 16) : (unpack565 c).Fits := by
  obtain ⟨hr, hg, hb⟩ := unpack565_le c
  exact ⟨hr, hg, hb⟩

theorem Rgb.Between.fits {c x y : Rgb} (h : c.Between x y) (hx : x.Fits) (hy : y.Fits) : c.Fits :=
  ⟨h.r.2.trans (max_le hx.r hy.r), h.g.2.trans (max_le hx.g hy.g), h.b.2.trans (max_le hx.b hy.b)⟩

theorem Rgb.Between.swap {c x y : Rgb} (h : c.Between x y) : c.Between y x := by
  obtain ⟨hr, hg, hb⟩ := h
  constructor <;> rwa [min_comm, max_comm]

theorem Rgb.twoThirds_between (x y : Rgb) : (x.twoThirds y).Between x y :=
  ⟨Machine.twoThirds_between .., Machine.twoThirds_between .., Machine.twoThirds_between ..⟩

theorem midpoint_between (x y : Nat) : min x y ≤ (x + y) / 2 ∧ (x + y) / 2 ≤ max x y := by omega

theorem Rgb.midpoint_between (x y : Rgb) : (x.midpoint y).Between x y :=
  ⟨Machine.midpoint_between .., Machine.midpoint_between .., Machine.midpoint_between ..⟩

/-- Between a colour and itself lies that colour alone. -/
theorem Rgb.Between.eq_of_self {c x : Rgb} (h : c.Between x x) : c = x := by
  obtain ⟨hr, hg, hb⟩ := h
  rw [min_self, max_self] at hr hg hb
  cases c
  cases x
  simp only [Rgb.mk.injEq]
  exact ⟨Nat.le_antisymm hr.2 hr.1, Nat.le_antisymm hg.2 hg.1, Nat.le_antisymm hb.2 hb.1⟩

/-- The channels of an unpacked RGB565 value as divisions of the packed one. -/
theorem unpack565_eq (c : BitVec 16) : unpack565 c =
    { r := c.toNat / 2 ^ 11 % 32 * 255 / 31, g := c.toNat / 2 ^ 5 % 64 * 255 / 63, b := c.toNat % 32 * 255 / 31 } := by
  simp only [unpack565, scale, BitVec.extractLsb'_toNat, Nat.shiftRight_eq_div_pow, pow_zero, Nat.div_one]
  rfl

theorem Rgb.withAlpha_toNat {c : Rgb} (h : c.Fits) (a : Byte) :
    (c.withAlpha a).toNat = c.r + c.g * 2 ^ 8 + c.b * 2 ^ 16 + a.toNat * 2 ^ 24 := by
  obtain ⟨hr, hg, hb⟩ := h
  rw [Rgb.withAlpha, rgba, packBytes_toNat, BitVec.toNat_ofNat, BitVec.toNat_ofNat, BitVec.toNat_ofNat]
  omega

/-- A colour between two others is between them as a table entry too. -/
theorem Rgb.Between.channel {chan : Word → Byte} (hchan : chan = sampleR ∨ chan = sampleG ∨ chan = sampleB)
    {c x y : Rgb} (h : c.Between x y) (hx : x.Fits) (hy : y.Fits) (a : Byte) :
    min (chan (x.withAlpha a)).toNat (chan (y.withAlpha a)).toNat ≤ (chan (c.withAlpha a)).toNat ∧
      (chan (c.withAlpha a)).toNat ≤ max (chan (x.withAlpha a)).toNat (chan (y.withAlpha a)).toNat := by
  have hc := h.fits hx hy
  have hbyte {n : Nat} (hn : n ≤ 255) : (BitVec.ofNat 8 n).toNat = n := Nat.mod_eq_of_lt (Nat.lt_succ_of_le hn)
  obtain rfl | rfl | rfl := hchan
  · simpa only [sampleR_withAlpha, hbyte hc.r, hbyte hx.r, hbyte hy.r] using h.r
  · simpa only [sampleG_withAlpha, hbyte hc.g, hbyte hx.g, hbyte hy.g] using h.g
  · simpa only [sampleB_withAlpha, hbyte hc.b, hbyte hx.b, hbyte hy.b] using h.b

/-! ### The colour table (R103 to R106, R112) -/

theorem fourColours_iff (c0 c1 : BitVec 16) (pol : Policy) :
    fourColours c0 c1 pol = true ↔ pol = .four ∨ c1.toNat < c0.toNat := by
  cases pol <;> simp [fourColours]

theorem fourColours_eq_false_iff (c0 c1 : BitVec 16) (pol : Policy) :
    fourColours c0 c1 pol = false ↔ ¬ (pol = .four ∨ c1.toNat < c0.toNat) := by
  rw [← fourColours_iff, Bool.not_eq_true]

theorem entry2_twoThirds {p : S2LE} {four : Bool} (h : four = true ∨ p = .thirds) (x y : Rgb) :
    entry2 p four x y = (x.twoThirds y).withAlpha 255#8 := by
  simp [entry2, h]

theorem entry2_average (x y : Rgb) : entry2 .average false x y = (x.midpoint y).withAlpha 255#8 := rfl

theorem entry3_four (ae : Bool) (x y : Rgb) : entry3 true ae x y = (y.twoThirds x).withAlpha 255#8 := rfl

theorem entry3_transparent (x y : Rgb) : entry3 false true x y = 0#32 := rfl

theorem entry3_black (x y : Rgb) : entry3 false false x y = rgba 0#8 0#8 0#8 255#8 := rfl

/-- Entry 2 is a blend of the two endpoints in every case. -/
theorem entry2_between (p : S2LE) (four : Bool) (x y : Rgb) :
    ∃ c : Rgb, entry2 p four x y = c.withAlpha 255#8 ∧ c.Between x y := by
  cases p with
  | thirds => exact ⟨_, entry2_twoThirds (.inr rfl) x y, x.twoThirds_between y⟩
  | average =>
    cases four with
    | true => exact ⟨_, entry2_twoThirds (.inl rfl) x y, x.twoThirds_between y⟩
    | false => exact ⟨_, entry2_average x y, x.midpoint_between y⟩

theorem entry3_black_colour (ae : Bool) (x y : Rgb) : (entry3 false ae x y).extractLsb' 0 24 = 0#24 := by
  cases ae with
  | true => rw [entry3_transparent]; rfl
  | false => rw [entry3_black]; decide

/-- The flag decides the alpha byte of black, so bits 23:0 of entry 3 do not depend on it (R104). -/
theorem entry3_colour (four ae ae' : Bool) (x y : Rgb) :
    (entry3 four ae' x y).extractLsb' 0 24 = (entry3 four ae x y).extractLsb' 0 24 := by
  cases four with
  | true => rfl
  | false => rw [entry3_black_colour, entry3_black_colour]

/-- The table of four colours has no black entry, whatever the flag. -/
theorem colourLUT_entry3_four {c0 c1 : BitVec 16} {pol : Policy} (h : pol = .four ∨ c1.toNat < c0.toNat) (p : S2LE)
    (ae : Bool) :
    (colourLUT p c0 c1 pol ae)[3] = ((unpack565 c1).twoThirds (unpack565 c0)).withAlpha 255#8 := by
  rw [colourLUT_entry3, (fourColours_iff ..).2 h, entry3_four]

/-- With `FOUR` entry 2 is two thirds of the first endpoint and entry 3 two thirds of the second. -/
theorem colourLUT_four_swap (p : S2LE) (c0 c1 : BitVec 16) (ae : Bool) :
    (colourLUT p c1 c0 .four ae)[2] = (colourLUT p c0 c1 .four ae)[3] := by
  rw [colourLUT_entry3_four (.inl rfl), colourLUT_entry2]
  exact entry2_twoThirds (.inl rfl) ..

theorem not_four_iff (c0 c1 : BitVec 16) (pol : Policy) :
    ¬ (pol = .four ∨ c1.toNat < c0.toNat) ↔ pol = .dxt1 ∧ c0.toNat ≤ c1.toNat := by
  cases pol <;> simp

/-- Settles O42: each entry is a packed colour whose channels fit 8 bits, or black. -/
theorem colourTableEntries : Obligations.ColourTableEntries := by
  intro p c0 c1 pol ae r0 g0 b0 r1 g1 b1 pack four E
  have hc0 : unpack565 c0 = ⟨r0, g0, b0⟩ := unpack565_eq c0
  have hc1 : unpack565 c1 = ⟨r1, g1, b1⟩ := unpack565_eq c1
  have hfits0 := unpack565_fits c0
  have hfits1 := unpack565_fits c1
  have hblend := ((unpack565 c0).twoThirds_between (unpack565 c1)).fits hfits0 hfits1
  have hblend' := ((unpack565 c1).twoThirds_between (unpack565 c0)).fits hfits1 hfits0
  have hmid := ((unpack565 c0).midpoint_between (unpack565 c1)).fits hfits0 hfits1
  refine ⟨?_, ?_, fun h => ?_, fun ⟨h, hp⟩ => ?_, fun h => ?_, fun ⟨h, hae⟩ => ?_, fun ⟨h, hae⟩ => ?_⟩
  · rw [colourLUT_entry0, Rgb.withAlpha_toNat hfits0, hc0]; rfl
  · rw [colourLUT_entry1, Rgb.withAlpha_toNat hfits1, hc1]; rfl
  · rw [colourLUT_entry2, entry2_twoThirds (h.imp_left (fourColours_iff ..).2), Rgb.withAlpha_toNat hblend, hc0, hc1]; rfl
  · rw [colourLUT_entry2, hp, (fourColours_eq_false_iff ..).2 h, entry2_average, Rgb.withAlpha_toNat hmid, hc0, hc1]; rfl
  · rw [colourLUT_entry3_four h, Rgb.withAlpha_toNat hblend', hc0, hc1, Nat.add_comm r0, Nat.add_comm g0, Nat.add_comm b0]
    rfl
  · rw [colourLUT_entry3, hae, (fourColours_eq_false_iff ..).2 h, entry3_transparent]; rfl
  · rw [colourLUT_entry3, hae, (fourColours_eq_false_iff ..).2 h, entry3_black]; rfl

/-- Settles O43: a blend lies between its endpoints, so it is the endpoint where they agree; swapping the endpoints of the
`FOUR` table swaps the two `twoThirds` blends; the flag is read for black alone. -/
theorem colourTableProperties : Obligations.ColourTableProperties := by
  intro p c0 c1 pol ae E four
  obtain ⟨c, hc, hbetween⟩ := entry2_between p (fourColours c0 c1 pol) (unpack565 c0) (unpack565 c1)
  have h2 : E[2] = c.withAlpha 255#8 := hc
  have hbetween' := ((unpack565 c1).twoThirds_between (unpack565 c0)).swap
  have hfits0 := unpack565_fits c0
  have hfits1 := unpack565_fits c1
  refine ⟨fun _ _ => ⟨rfl, rfl⟩, ?_, ?_, fun chan hchan => ⟨?_, fun h => ?_⟩, fun ae' => ⟨rfl, ?_, fun hne => ?_⟩⟩
  · rintro rfl
    exact ⟨colourLUT_entry0 .., colourLUT_entry1 .., colourLUT_four_swap .., (colourLUT_four_swap ..).symm⟩
  · rintro rfl
    exact ⟨by rw [h2, hbetween.eq_of_self, colourLUT_entry0],
      fun h => by rw [colourLUT_entry3_four h, hbetween'.eq_of_self, colourLUT_entry0]⟩
  · rw [h2]
    exact hbetween.channel hchan hfits0 hfits1 255#8
  · rw [colourLUT_entry3_four h]
    exact hbetween'.channel hchan hfits0 hfits1 255#8
  · exact entry3_colour ..
  · refine (not_four_iff ..).1 fun h => hne ?_
    rw [colourLUT_entry3_four h, colourLUT_entry3_four h]

/-! ### The alpha table (R107, R109, R115) -/

theorem alphaLUT_entry0 (a0 a1 : Byte) : (alphaLUT a0 a1)[0] = a0 := by
  unfold alphaLUT
  split <;> rfl

theorem alphaLUT_entry1 (a0 a1 : Byte) : (alphaLUT a0 a1)[1] = a1 := by
  unfold alphaLUT
  split <;> rfl

theorem alphaLUT_of_lt {a0 a1 : Byte} (h : a1.toNat < a0.toNat) : alphaLUT a0 a1 =
    #v[a0, a1, alphaStep 7 1 a0 a1, alphaStep 7 2 a0 a1, alphaStep 7 3 a0 a1, alphaStep 7 4 a0 a1, alphaStep 7 5 a0 a1,
      alphaStep 7 6 a0 a1] := if_pos h

theorem alphaLUT_of_le {a0 a1 : Byte} (h : a0.toNat ≤ a1.toNat) : alphaLUT a0 a1 =
    #v[a0, a1, alphaStep 5 1 a0 a1, alphaStep 5 2 a0 a1, alphaStep 5 3 a0 a1, alphaStep 5 4 a0 a1, 0#8, 255#8] :=
  if_neg (Nat.not_lt.2 h)

theorem alphaLUT_sevenSteps {a0 a1 : Byte} (h : a1.toNat < a0.toNat) {k : Nat} (h1 : 1 ≤ k) (h6 : k ≤ 6) :
    (alphaLUT a0 a1)[k + 1]? = some (alphaStep 7 k a0 a1) := by
  rw [alphaLUT_of_lt h]
  interval_cases k <;> rfl

theorem alphaLUT_fiveSteps {a0 a1 : Byte} (h : a0.toNat ≤ a1.toNat) {k : Nat} (h1 : 1 ≤ k) (h4 : k ≤ 4) :
    (alphaLUT a0 a1)[k + 1]? = some (alphaStep 5 k a0 a1) := by
  rw [alphaLUT_of_le h]
  interval_cases k <;> rfl

/-- Settles O45: the entries between the endpoints are the steps of the scale, which lose nothing in 8 bits. -/
theorem alphaTableEntries : Obligations.AlphaTableEntries := by
  refine fun a0 a1 => ⟨alphaLUT_entry0 a0 a1, alphaLUT_entry1 a0 a1, fun h k h1 h6 => ?_,
    fun h => ⟨fun k h1 h4 => ?_, ?_⟩⟩
  · rw [alphaLUT_sevenSteps h h1 h6, Option.map_some, alphaStep_toNat 7 k a0 a1 (by decide) (by omega)]
  · rw [alphaLUT_fiveSteps h h1 h4, Option.map_some, alphaStep_toNat 5 k a0 a1 (by decide) (by omega)]
  · simp only [alphaLUT_of_le h]
    exact ⟨rfl, rfl⟩

section Scale

variable {n : Nat} (a0 a1 : Byte)

theorem alphaStep_zero (hn : 0 < n) : alphaStep n 0 a0 a1 = a0 := by
  apply BitVec.eq_of_toNat_eq
  rw [alphaStep_toNat n 0 a0 a1 hn (Nat.zero_le n), Nat.sub_zero, Nat.zero_mul, Nat.add_zero, Nat.mul_div_cancel_left _ hn]

theorem alphaStep_self (hn : 0 < n) : alphaStep n n a0 a1 = a1 := by
  apply BitVec.eq_of_toNat_eq
  rw [alphaStep_toNat n n a0 a1 hn (Nat.le_refl n), Nat.sub_self, Nat.zero_mul, Nat.zero_add, Nat.mul_div_cancel_left _ hn]

/-- One step along the scale moves one unit of weight from `x` to `y`. -/
theorem weights_succ {k : Nat} (hk : k < n) (x y : Nat) :
    (n - (k + 1)) * x + (k + 1) * y + x = (n - k) * x + k * y + y := by
  obtain ⟨d, rfl⟩ := Nat.exists_eq_add_of_lt hk
  rw [show k + d + 1 - (k + 1) = d by omega, show k + d + 1 - k = d + 1 by omega]
  ring

variable {a0 a1} {k : Nat} (hk : k < n)
include hk

theorem alphaStep_succ_le (h : a1.toNat ≤ a0.toNat) : (alphaStep n (k + 1) a0 a1).toNat ≤ (alphaStep n k a0 a1).toNat := by
  have hweights := weights_succ hk a0.toNat a1.toNat
  rw [alphaStep_toNat n (k + 1) a0 a1 (by omega) (by omega), alphaStep_toNat n k a0 a1 (by omega) hk.le]
  exact Nat.div_le_div_right (by omega)

theorem alphaStep_le_succ (h : a0.toNat ≤ a1.toNat) : (alphaStep n k a0 a1).toNat ≤ (alphaStep n (k + 1) a0 a1).toNat := by
  have hweights := weights_succ hk a0.toNat a1.toNat
  rw [alphaStep_toNat n (k + 1) a0 a1 (by omega) (by omega), alphaStep_toNat n k a0 a1 (by omega) hk.le]
  exact Nat.div_le_div_right (by omega)

end Scale

/-- Settles O46: the entries are the steps of one scale from the first endpoint, its step 0, to the second, its last step,
and each step is a byte. -/
theorem alphaTableOrder : Obligations.AlphaTableOrder := by
  refine fun a0 a1 => ⟨fun h => ?_, fun h => ?_, fun n k hn hk => ?_⟩
  · have hstep {k : Nat} (hk : k < 7) := alphaStep_succ_le hk h.le
    have hfirst := hstep (k := 0) (by decide)
    have hlast := hstep (k := 6) (by decide)
    rw [alphaStep_zero _ _ (by decide)] at hfirst
    rw [alphaStep_self _ _ (by decide)] at hlast
    simp only [alphaLUT_of_lt h]
    exact ⟨hfirst, hstep (by decide), hstep (by decide), hstep (by decide), hstep (by decide), hstep (by decide), hlast⟩
  · have hstep {k : Nat} (hk : k < 5) := alphaStep_le_succ hk h
    have hfirst := hstep (k := 0) (by decide)
    have hlast := hstep (k := 4) (by decide)
    rw [alphaStep_zero _ _ (by decide)] at hfirst
    rw [alphaStep_self _ _ (by decide)] at hlast
    simp only [alphaLUT_of_le h]
    exact ⟨hfirst, hstep (by decide), hstep (by decide), hstep (by decide), hlast, rfl, rfl⟩
  · rw [← alphaStep_toNat n k a0 a1 hn hk]
    exact (alphaStep n k a0 a1).isLt

/-! ### `LUTC` and `LUTA` (R101, R110, R113) -/

/-- An offset answers alike where the register that stands there reads alike. -/
theorem readAnswer_congr {s t : State} {off : Nat} (h : ∀ r, off = regOffset r → readReg r t = readReg r s) (width : Nat) :
    readAnswer off width t = readAnswer off width s := by
  cases hacc : accessedReg off width with
  | none => simp only [readAnswer, hacc]
  | some r =>
    obtain ⟨rfl, rfl⟩ := accessedReg_eq_some.1 hacc
    rw [readAnswer_regOffset, readAnswer_regOffset, h r rfl]

theorem readAnswer_writeClut {off : Nat} (hoff : off < 0x40 ∨ 0x4C < off) (table : Vector Word 4) (s : State)
    (width : Nat) : readAnswer off width (writeClut table s) = readAnswer off width s := by
  refine readAnswer_congr (fun r hr => ?_) width
  cases r with
  | clut i => rw [hr, regOffset] at hoff; omega
  | ibuf j => simp only [readReg, memRead_congr (writeClut_ibuf table s)]
  | _ => rfl

theorem readAnswer_writeAlut {off : Nat} (hoff : off < 0x50 ∨ 0x54 < off) (table : Vector Byte 8) (s : State)
    (width : Nat) : readAnswer off width (writeAlut table s) = readAnswer off width s := by
  refine readAnswer_congr (fun r hr => ?_) width
  cases r with
  | alutLo | alutHi => rw [hr, regOffset] at hoff; omega
  | ibuf j => simp only [readReg, memRead_congr (writeAlut_ibuf table s)]
  | _ => rfl

theorem pastIbuf_eq_true_iff (src : BitVec 4) (length : Nat) : pastIbuf src length = true ↔ 16 < src.toNat + length :=
  decide_eq_true_iff

theorem exec_lutc_of_fits {src : BitVec 4} (h : src.toNat ≤ 12) (pol : Policy) (s : State) :
    exec (.lutc src pol) s = .next (writeClut (colourTableAt s src.toNat pol s.alphaEn) s) :=
  if_neg (by rw [pastIbuf_eq_true_iff]; omega)

theorem exec_lutc_of_past {src : BitVec 4} (h : 12 < src.toNat) (pol : Policy) (s : State) :
    exec (.lutc src pol) s = .next (raiseFault .ibufRange (encode (.lutc src pol)) s) :=
  if_pos (by rw [pastIbuf_eq_true_iff]; omega)

theorem exec_luta_of_fits {src : BitVec 4} (h : src.toNat ≤ 14) (s : State) :
    exec (.luta src) s = .next (writeAlut (alphaTableAt s src.toNat) s) :=
  if_neg (by rw [pastIbuf_eq_true_iff]; omega)

theorem exec_luta_of_past {src : BitVec 4} (h : 14 < src.toNat) (s : State) :
    exec (.luta src) s = .next (raiseFault .ibufRange (encode (.luta src)) s) :=
  if_pos (by rw [pastIbuf_eq_true_iff]; omega)

/-- Settles O44: one `writeClut` of the table at `SRC`, or the fault entry with the command's own word. -/
theorem lutcWritesColourTable : Obligations.LutcWritesColourTable := by
  refine fun src pol s => ⟨fun h => ?_, fun h => ?_⟩
  · exact ⟨_, endpoint s src.toNat, endpoint s (src.toNat + 2), exec_lutc_of_fits h pol s,
      by rw [endpoint_toNat, Nat.mul_comm 256]; rfl, by rw [endpoint_toNat, Nat.mul_comm 256]; rfl, rfl,
      fun _ width hoff => readAnswer_writeClut hoff _ s width⟩
  · refine ⟨_, exec_lutc_of_past h pol s, ?_, ?_⟩ <;> (rintro rfl; exact encode_lutc_toNat ..)

/-- Settles O47: one `writeAlut` of the table at `SRC`, or the fault entry with the command's own word. -/
theorem lutaWritesAlphaTable : Obligations.LutaWritesAlphaTable := by
  refine fun src s => ⟨fun h => ?_, ?_⟩
  · exact ⟨_, exec_luta_of_fits h s, rfl, fun _ width hoff => readAnswer_writeAlut hoff _ s width⟩
  · rintro rfl
    exact exec_luta_of_past (by decide) s

@[simp] theorem decode23_clut (s : State) : (decode23 s).clut = dxt2345Table s := writeTexels_clut ..

@[simp] theorem decode45_clut (s : State) : (decode45 s).clut = dxt2345Table s := writeTexels_clut ..

@[simp] theorem decode45_alut (s : State) : (decode45 s).alut = alphaTableAt s 0 := writeTexels_alut ..

/-- Settles O48: each block decode writes the tables of its own endpoints, and with `FOUR` the flag is not read. -/
theorem generatorsAloneMatchBlockDecodes : Obligations.GeneratorsAloneMatchBlockDecodes := by
  intro s
  have hfour : colourTableAt s 8 .four s.alphaEn = dxt2345Table s := colourLUT_four_flag ..
  refine ⟨_, _, _, _, _, _, _, _, exec_lutc_of_fits (by decide) .dxt1 s, exec_lutc_of_fits (by decide) .four s,
    exec_luta_of_fits (by decide) s, rfl, rfl, rfl, rfl, rfl, (writeTexels_clut ..).symm,
    hfour.trans (decode23_clut s).symm, hfour.trans (decode23_clut s).symm, hfour.trans (decode45_clut s).symm,
    hfour.trans (decode45_clut s).symm, (decode45_alut s).symm, (decode45_alut s).symm⟩

end Sys2Proof.Machine
end

section
/-! PROOFS. The obligations on `DXT1` (42_dxt1.md): the table and the sixteen samples it writes, the alpha of a sample, and
that bytes 8 to 15 of `IBUF` are not read. -/

namespace Sys2Proof.Machine

/-! ### What the fields of a block are as bytes (R101, R108) -/

theorem endpoint_toNat_bytes (s : State) (k : Nat) :
    (endpoint s k).toNat = (ibufByte s k).toNat + (ibufByte s (k + 1)).toNat * 2 ^ 8 := by
  rw [endpoint_toNat, Nat.mul_comm 256]
  rfl

theorem endpoint_congr_bytes {s t : State} {k : Nat} (h0 : ibufByte s k = ibufByte t k)
    (h1 : ibufByte s (k + 1) = ibufByte t (k + 1)) : endpoint s k = endpoint t k := by
  simp only [endpoint, memRead, h0, h1]

theorem cSel_eq_three_iff (s : State) (base e col : Nat) :
    cSel s base e col = 3#2 ↔ (ibufByte s (base + (3 - e))).toNat / 2 ^ (2 * col) % 4 = 3 := by
  rw [← BitVec.toNat_inj, cSel_toNat, BitVec.toNat_ofNat]

theorem selector_cases (sel : BitVec 2) : sel = 0#2 ∨ sel = 1#2 ∨ sel = 2#2 ∨ sel = 3#2 := by
  revert sel; decide

/-- The selectors see the whole table. -/
theorem eq_of_colourAt_eq {table table' : Vector Word 4} (h : ∀ sel, colourAt table sel = colourAt table' sel) :
    table = table' :=
  Vector.ext fun k hk => h (BitVec.ofNatLT k hk)

/-! ### The entries of the `DXT1` table (R104, R105, R122) -/

/-- The black entry, with `c0 <= c1`, is the one entry that reads the flag. -/
theorem colourLUT_dxt1_black {c0 c1 : BitVec 16} (h : c0.toNat ≤ c1.toNat) (p : S2LE) (ae : Bool) :
    (colourLUT p c0 c1 .dxt1 ae)[3] = if ae then 0x00000000#32 else 0xFF000000#32 := by
  rw [colourLUT_entry3, (fourColours_eq_false_iff ..).2 ((not_four_iff ..).2 ⟨rfl, h⟩)]
  cases ae with
  | true => exact entry3_transparent ..
  | false => rw [entry3_black]; decide

/-- Every entry but the black one is a colour of alpha 255 that does not depend on the flag. -/
theorem colourAt_dxt1_opaque {c0 c1 : BitVec 16} {sel : BitVec 2} (h : ¬ (sel = 3#2 ∧ c0.toNat ≤ c1.toNat)) (p : S2LE) :
    ∃ c : Rgb, ∀ ae : Bool, colourAt (colourLUT p c0 c1 .dxt1 ae) sel = c.withAlpha 255#8 := by
  obtain rfl | rfl | rfl | rfl := selector_cases sel
  · exact ⟨unpack565 c0, fun ae => colourLUT_entry0 p c0 c1 .dxt1 ae⟩
  · exact ⟨unpack565 c1, fun ae => colourLUT_entry1 p c0 c1 .dxt1 ae⟩
  · obtain ⟨c, hc, -⟩ := entry2_between p (fourColours c0 c1 .dxt1) (unpack565 c0) (unpack565 c1)
    exact ⟨c, fun ae => (colourLUT_entry2 p c0 c1 .dxt1 ae).trans hc⟩
  · have hlt : c1.toNat < c0.toNat := Nat.lt_of_not_le fun hle => h ⟨rfl, hle⟩
    exact ⟨_, fun ae => colourLUT_entry3_four (.inr hlt) p ae⟩

/-- The table of four colours does not depend on the flag. -/
theorem colourLUT_dxt1_flag {c0 c1 : BitVec 16} (h : c1.toNat < c0.toNat) (p : S2LE) (ae ae' : Bool) :
    colourLUT p c0 c1 .dxt1 ae = colourLUT p c0 c1 .dxt1 ae' := by
  refine eq_of_colourAt_eq fun sel => ?_
  obtain ⟨c, hc⟩ := colourAt_dxt1_opaque (sel := sel) (fun ⟨_, hle⟩ => hle.not_gt h) p
  rw [hc ae, hc ae']

/-! ### `DXT1` (R120 to R122) -/

theorem exec_dxt1_sample {s t : State} (h : exec .dxt1 s = .next t) {e col : Nat} (he : e < 4) (hcol : col < 4) :
    t.obuf[4 * e + col]? = some (dxt1Texel s e col) := by
  cases h
  exact writeTexels_sample _ _ he hcol

/-- The texel picks the black entry: selector 3 with `c0 <= c1` (R122). -/
def BlackTexel (s : State) (e col : Nat) : Prop :=
  cSel s 4 e col = 3#2 ∧ (endpoint s 0).toNat ≤ (endpoint s 2).toNat

theorem blackTexel_iff_bytes (s : State) (e col : Nat) : BlackTexel s e col ↔
    (ibufByte s (4 + (3 - e))).toNat / 2 ^ (2 * col) % 4 = 3 ∧
      (ibufByte s 0).toNat + (ibufByte s 1).toNat * 2 ^ 8 ≤ (ibufByte s 2).toNat + (ibufByte s 3).toNat * 2 ^ 8 := by
  rw [BlackTexel, cSel_eq_three_iff, endpoint_toNat_bytes, endpoint_toNat_bytes]

theorem dxt1Texel_black {s : State} {e col : Nat} (h : BlackTexel s e col) :
    dxt1Texel s e col = if s.alphaEn then 0x00000000#32 else 0xFF000000#32 := by
  obtain ⟨hsel, hle⟩ := h
  rw [dxt1Texel, hsel]
  exact colourLUT_dxt1_black hle s.s2le s.alphaEn

theorem dxt1Texel_opaque {s : State} {e col : Nat} (h : ¬ BlackTexel s e col) :
    ∃ c : Rgb, ∀ ae : Bool, dxt1Texel { s with alphaEn := ae } e col = c.withAlpha 255#8 :=
  colourAt_dxt1_opaque h s.s2le

/-- Beside its table `DXT1` reads the selectors in bytes 4 to 7 only. -/
theorem exec_dxt1_congr {s s' t t' : State} (htable : dxt1Table s = dxt1Table s')
    (hbytes : ∀ k : Nat, k < 8 → ibufByte s k = ibufByte s' k) (h : exec .dxt1 s = .next t)
    (h' : exec .dxt1 s' = .next t') : t.clut = t'.clut ∧ t.obuf = t'.obuf := by
  have htexel : dxt1Texel s = dxt1Texel s' := by
    funext e col
    simp only [dxt1Texel, htable, cSel, hbytes (4 + (3 - e)) (by omega)]
  cases h
  cases h'
  simp only [writeTexels_clut, writeClut_clut, writeTexels_obuf, htable, htexel, and_self]

/-- Settles O49: the table of the endpoints at byte 0, and each sample the entry its selector picks from it. -/
theorem dxt1DecodesBlock : Obligations.Dxt1DecodesBlock := by
  refine fun s => ⟨_, endpoint s 0, endpoint s 2, rfl, endpoint_toNat_bytes s 0, endpoint_toNat_bytes s 2, rfl,
    fun e col he hcol => ?_⟩
  rw [writeTexels_sample _ _ he hcol, writeTexels_clut, writeClut_clut, ← cSel_toNat, colourAt_eq, dxt1Texel]

/-- Settles O50: the selector 3 with `c0 <= c1` picks black, whose alpha the flag decides; every other sample is a colour of
alpha 255 that the flag does not change, and with `c0 > c1` the table has no black. -/
theorem dxt1AlphaRule : Obligations.Dxt1AlphaRule := by
  intro s t t' h h'
  refine ⟨fun e col v he hcol hv => ?_, fun hlt => ?_⟩
  · intro transparent
    have hblack : transparent ↔ BlackTexel s e col := (blackTexel_iff_bytes s e col).symm
    obtain rfl : dxt1Texel s e col = v := Option.some.inj ((exec_dxt1_sample h he hcol).symm.trans hv)
    rw [hblack]
    by_cases hb : BlackTexel s e col
    · rw [dxt1Texel_black hb]
      cases s.alphaEn with
      | true => simp [hb]
      | false => simp [hb, sampleA]
    · obtain ⟨c, hc⟩ := dxt1Texel_opaque hb
      have hv : dxt1Texel s e col = c.withAlpha 255#8 := hc s.alphaEn
      refine ⟨fun ⟨hb', _⟩ => absurd hb' hb, fun ⟨hb', _⟩ => absurd hb' hb, fun _ => ?_, fun _ => ?_⟩
      · rw [hv, sampleA_withAlpha]
      · rw [exec_dxt1_sample h' he hcol, hc, hv]
  · rw [← endpoint_toNat_bytes, ← endpoint_toNat_bytes] at hlt
    have htable : dxt1Table { s with alphaEn := !s.alphaEn } = dxt1Table s := colourLUT_dxt1_flag hlt ..
    exact exec_dxt1_congr htable (fun _ _ => rfl) h' h

/-- Settles O51: the endpoints are bytes 0 to 3 and the selectors bytes 4 to 7. -/
theorem dxt1IgnoresUpperHalf : Obligations.Dxt1IgnoresUpperHalf := by
  intro s s' t t' hbytes hae hp
  have htable : dxt1Table s = dxt1Table s' := by
    simp only [dxt1Table, colourTableAt, hae, hp,
      endpoint_congr_bytes (hbytes 0 (by decide)) (hbytes 1 (by decide)),
      endpoint_congr_bytes (hbytes 2 (by decide)) (hbytes 3 (by decide))]
  exact exec_dxt1_congr htable hbytes

end Sys2Proof.Machine
end

section
/-! PROOFS. The obligation on `DXT2` and `DXT3` (43_dxt23.md): the table and the sixteen samples they write, each with its
explicit alpha. -/

namespace Sys2Proof.Machine

/-! ### The explicit alpha (R133, R134) -/

/-- A 4-bit value rescaled to 8 bits: `255 = 17 * 15`, so the division by 15 is exact. -/
theorem scale_four (v : Nat) : scale v 4 = 17 * v := by
  simp only [scale]
  omega

/-- The rescaled nibble fits 8 bits, so the truncation changes nothing. -/
theorem explicitAlpha_toNat (s : State) (e col : Nat) :
    (explicitAlpha s e col).toNat = 17 * (alphaNibble s e col).toNat := by
  have hnibble : (alphaNibble s e col).toNat < 16 := (alphaNibble s e col).isLt
  rw [explicitAlpha, scale_four, BitVec.toNat_ofNat]
  exact Nat.mod_eq_of_lt (by omega)

/-! ### `DXT2` and `DXT3` (R131, R132) -/

/-- `DXT3` is the decode of `DXT2`. -/
theorem exec_dxt23 {i : Instr} (hi : i = .dxt2 ∨ i = .dxt3) (s : State) : exec i s = .next (decode23 s) := by
  obtain rfl | rfl := hi
  · rfl
  · rfl

theorem decode23_sample (s : State) {e col : Nat} (he : e < 4) (hcol : col < 4) :
    (decode23 s).obuf[4 * e + col]? = some (dxt23Texel s e col) :=
  writeTexels_sample _ _ he hcol

/-- Settles O52: the `FOUR` table of the endpoints at byte 8, and each sample the entry its selector picks from it, with the
three colour bytes kept and the alpha byte replaced by the rescaled nibble. -/
theorem dxt23DecodesBlock : Obligations.Dxt23DecodesBlock := by
  refine fun i s hi => ⟨decode23 s, endpoint s 8, endpoint s 10, exec_dxt23 hi s, endpoint_toNat_bytes s 8,
    endpoint_toNat_bytes s 10, rfl, fun e col he hcol => ?_⟩
  refine ⟨dxt23Texel s e col, colourAt (dxt2345Table s) (cSel s 12 e col), decode23_sample s he hcol, ?_,
    sampleR_replaceAlpha .., sampleG_replaceAlpha .., sampleB_replaceAlpha .., ?_⟩
  · rw [decode23_clut, ← cSel_toNat, colourAt_eq]
  · rw [dxt23Texel, sampleA_replaceAlpha, explicitAlpha_toNat, alphaNibble_toNat]

end Sys2Proof.Machine
end

section
/-! PROOFS. The obligation on `DXT4` and `DXT5` (44_dxt45.md): the two tables and the sixteen samples they write, each with
its interpolated alpha. -/

namespace Sys2Proof.Machine

/-! ### The interpolated alpha (R140, R143) -/

/-- The selector is three bits of the six bytes from byte 2, taken as one little-endian number. -/
theorem alphaSel_toNat_bytes (s : State) (e col : Nat) : (alphaSel s e col).toNat =
    (∑ b ∈ Finset.range 6, (ibufByte s (2 + b)).toNat * 256 ^ b) / 2 ^ (3 * (4 * (3 - e) + col)) % 8 := by
  rw [alphaSel_toNat, memRead_eq_sum]

theorem sampleA_dxt45Texel (s : State) (e col : Nat) :
    sampleA (dxt45Texel s e col) = alphaAt (alphaTableAt s 0) (alphaSel s e col) :=
  sampleA_replaceAlpha ..

/-! ### `DXT4` and `DXT5` (R141, R142) -/

/-- `DXT5` is the decode of `DXT4`. -/
theorem exec_dxt45 {i : Instr} (hi : i = .dxt4 ∨ i = .dxt5) (s : State) : exec i s = .next (decode45 s) := by
  obtain rfl | rfl := hi
  · rfl
  · rfl

theorem decode45_sample (s : State) {e col : Nat} (he : e < 4) (hcol : col < 4) :
    (decode45 s).obuf[4 * e + col]? = some (dxt45Texel s e col) :=
  writeTexels_sample _ _ he hcol

/-- Settles O53: the alpha table of bytes 0 and 1, the `FOUR` table of the endpoints at byte 8, and each sample the entry its
colour selector picks, with the three colour bytes kept and the alpha byte replaced by the entry its alpha selector picks. -/
theorem dxt45DecodesBlock : Obligations.Dxt45DecodesBlock := by
  refine fun i s hi => ⟨decode45 s, endpoint s 8, endpoint s 10, exec_dxt45 hi s, endpoint_toNat_bytes s 8,
    endpoint_toNat_bytes s 10, rfl, fun e col he hcol => ?_⟩
  refine ⟨dxt45Texel s e col, colourAt (dxt2345Table s) (cSel s 12 e col), decode45_sample s he hcol, ?_,
    sampleR_replaceAlpha .., sampleG_replaceAlpha .., sampleB_replaceAlpha .., ?_⟩
  · rw [decode45_clut, ← cSel_toNat, colourAt_eq]
  · rw [decode45_alut, ← alphaSel_toNat_bytes, alphaAt_eq, sampleA_dxt45Texel]

end Sys2Proof.Machine
end

section
/-! PROOFS. The obligations on `NOP`, `DX10` and the reserved tag words (45_nop_unsupported.md): the command that does nothing,
and the four commands whose own effect is the fault `UnsupportedCompression`. -/

namespace Sys2Proof.Machine

/-! ### `NOP` (R150) -/

/-- The gate drops the zero word or lets it through to `NOP`, and neither changes anything. -/
theorem runCommand_zero (s : State) : runCommand 0#32 s = .next s := by
  cases hf : s.fault with
  | true => exact runCommand_faulted _ hf
  | false => exact (runCommand_does_nothing_iff 0#32).2 rfl s hf

/-- Settles O32: `NOP` hands its state on, and of the words with opcode 0 only the zero word passes the format check. -/
theorem nopDoesNothing : Obligations.NopDoesNothing := by
  refine ⟨fun s => ⟨rfl, runCommand_zero s⟩, decode_encode (i := .nop) rfl, fun w hopc hne => ?_⟩
  have hpos : w.toNat ≠ 0 := fun h => hne (BitVec.eq_of_toNat_eq h)
  have hupper : w.toNat / 2 ^ 8 ≠ 0 := by omega
  exact (exists_decode_illegal_iff w).2 (.inr (.inr (.inl ⟨.inl hopc, hupper⟩)))

/-! ### The unsupported tags (R151, R152) -/

/-- The word of a reserved tag from 8 up is `0x10` plus its tag number. -/
theorem encode_reservedTag8To15 (tag : BitVec 4) :
    encode (.reservedTag8To15 tag) = BitVec.ofNat 32 (0x10 + tag.toNat) := by
  rw [← encode_reservedTag8To15_toNat, BitVec.ofNat_toNat, BitVec.setWidth_eq]

theorem decode_reservedTag8To15 {tag : BitVec 4} (h : 8 ≤ tag.toNat) :
    decode (BitVec.ofNat 32 (0x10 + tag.toNat)) = .command (.reservedTag8To15 tag) :=
  decode_eq_command_iff.2 ⟨decide_eq_true h, encode_reservedTag8To15 tag⟩

theorem unsupportedCompression_mem_commandFaults {i : Instr}
    (hi : i = .dx10 ∨ i = .reservedTag0 ∨ i = .reservedTag7 ∨ ∃ tag, i = .reservedTag8To15 tag) :
    .unsupportedCompression ∈ commandFaults i := by
  obtain rfl | rfl | rfl | ⟨tag, rfl⟩ := hi <;> simp [commandFaults]

/-- After the fault entry `STATUS` reads the flag beside the code and `FCMD` the word, whatever the state was. -/
theorem readAnswer_raiseFault_unsupported (w : Word) (s : State) :
    readAnswer 0x08 32 (raiseFault .unsupportedCompression w s) = .value 0x00000021#32 ∧
      readAnswer 0x10 32 (raiseFault .unsupportedCompression w s) = .value w :=
  ⟨readAnswer_of_readReg .status rfl, readAnswer_of_readReg .fcmd rfl⟩

/-- Settles O33: each of the four commands is the fault entry with its own word, and a word with the opcode of one of them
passes the format check only when it is that opcode alone. -/
theorem unsupportedTagsFault : Obligations.UnsupportedTagsFault := by
  refine ⟨decode_encode (i := .dx10) rfl, decode_encode (i := .reservedTag0) rfl, decode_encode (i := .reservedTag7) rfl,
    fun tag => decode_reservedTag8To15, fun w hopc hupper => ?_, fun s t i h hi => ?_, fun s => ⟨rfl, rfl, rfl, ?_⟩⟩
  · have hrow : 16 ≤ w.toNat % 256 ∧ w.toNat % 256 ≤ 31 := by omega
    exact (exists_decode_illegal_iff w).2 (.inr (.inr (.inl ⟨.inr hrow, hupper⟩)))
  · rw [exec_of_unsupported (unsupportedCompression_mem_commandFaults hi)] at h
    cases h
    exact readAnswer_raiseFault_unsupported (encode i) s
  · intro tag _
    rw [← encode_reservedTag8To15]
    rfl

end Sys2Proof.Machine
end

section
/-! PROOFS. The obligations on the layout of a compressed level (46_downstream_contract.md R162, R164): the spans, and the
reassembly as one map over the image's pixels. -/

namespace Sys2Proof.Machine

/-! ### Lists gone through piece by piece -/

/-- Numbers gone through `load` at a time, the last piece cut at `count`, are the numbers in order. -/
theorem flatMap_range_pieces {α : Type} (f : Nat → List α) (load count m : Nat) :
    ((List.range m).flatMap fun k => (List.range (min load (count - k * load))).flatMap fun j => f (k * load + j)) =
      (List.range (min (m * load) count)).flatMap f := by
  induction m with
  | zero => simp
  | succ m ih =>
    rw [List.range_succ, List.flatMap_append, ih, List.flatMap_singleton, Nat.succ_mul]
    rcases Nat.le_total count (m * load) with h | h
    · rw [Nat.sub_eq_zero_of_le h, Nat.min_eq_right h, Nat.min_eq_right (h.trans (Nat.le_add_right ..))]
      simp
    · have hlast : min (m * load + load) count = m * load + min load (count - m * load) := by omega
      rw [Nat.min_eq_left h, hlast, List.range_add, List.flatMap_append, List.flatMap_map]

/-- `flatMap_range_pieces` where each number gives one element. -/
theorem flatMap_map_range_pieces {α : Type} (f : Nat → α) (load count m : Nat) :
    ((List.range m).flatMap fun k => (List.range (min load (count - k * load))).map fun j => f (k * load + j)) =
      (List.range (min (m * load) count)).map f := by
  simp only [List.map_eq_flatMap]
  exact flatMap_range_pieces (fun n => [f n]) load count m

/-- Pieces of one length, none of them cut. -/
theorem flatMap_range_mul {α : Type} (f : Nat → List α) (m load : Nat) :
    ((List.range m).flatMap fun k => (List.range load).flatMap fun j => f (k * load + j)) =
      (List.range (m * load)).flatMap f := by
  have hpiece : ∀ k ∈ List.range m, min load (m * load - k * load) = load := by
    intro k hk
    rw [← Nat.sub_mul]
    exact Nat.min_eq_left (Nat.le_mul_of_pos_left _ (Nat.sub_pos_of_lt (List.mem_range.1 hk)))
  rw [← Nat.min_self (m * load), ← flatMap_range_pieces]
  exact List.flatMap_congr fun k hk => by rw [hpiece k hk]

/-- `flatMap_range_mul` where each number gives one element. -/
theorem flatMap_map_range_mul {α : Type} (f : Nat → α) (m load : Nat) :
    ((List.range m).flatMap fun k => (List.range load).map fun j => f (k * load + j)) =
      (List.range (m * load)).map f := by
  simp only [List.map_eq_flatMap]
  exact flatMap_range_mul (fun n => [f n]) m load

/-- The place of a pixel in a row-major image gives back its row and column. -/
theorem rowMajor_div_mod {width x : Nat} (hx : x < width) (y : Nat) :
    (y * width + x) / width = y ∧ (y * width + x) % width = x :=
  (Nat.div_mod_unique (Nat.zero_lt_of_lt hx)).2 ⟨by rw [Nat.mul_comm, Nat.add_comm], hx⟩

/-- Pieces of one length joined, element by element. -/
theorem flatMap_range_eq_map {α : Type} {f : Nat → List α} {m load : Nat} (h : ∀ k < m, (f k).length = load) (d : α) :
    (List.range m).flatMap f = (List.range (m * load)).map fun n => (f (n / load)).getD (n % load) d := by
  rw [← flatMap_map_range_mul]
  refine List.flatMap_congr fun k hk => List.ext_getElem ?_ fun j hj hj' => ?_
  · rw [h k (List.mem_range.1 hk), List.length_map, List.length_range]
  · have hlt : j < load := h k (List.mem_range.1 hk) ▸ hj
    obtain ⟨hdiv, hmod⟩ := rowMajor_div_mod hlt k
    rw [List.getElem_map, List.getElem_range, hdiv, hmod, List.getD_eq_getElem _ _ hj]

theorem take_drop_eq_map_getD {α : Type} {l : List α} {start n : Nat} (d : α) (h : start + n ≤ l.length) :
    (l.drop start).take n = (List.range n).map fun j => l.getD (start + j) d := by
  refine List.ext_getElem (by simp; omega) fun j hj hj' => ?_
  have hlt : start + j < l.length := by simp at hj'; omega
  simp [hlt]

theorem getD_take_drop {α : Type} (l : List α) (start : Nat) {n k : Nat} (hk : k < n) (d : α) :
    ((l.drop start).take n).getD k d = l.getD (start + k) d := by
  rw [List.getD_eq_getElem?_getD, List.getElem?_take_of_lt hk, List.getElem?_drop, List.getD_eq_getElem?_getD]

/-! ### Rounding to whole blocks (R162, R164) -/

theorem roundUp4_eq (n : Nat) : roundUp4 n = 4 * (roundUp4 n / 4) := by
  unfold roundUp4; omega

theorem le_roundUp4 (n : Nat) : n ≤ roundUp4 n := by
  unfold roundUp4; omega

theorem four_le_roundUp4 (n : Nat) : 4 ≤ roundUp4 n := by
  unfold roundUp4; omega

theorem roundUp4_lt (n : Nat) : roundUp4 n < max n 4 + 4 := by
  unfold roundUp4; omega

/-- The 4x4 blocks of a compressed level of the given height and width. -/
def levelBlocks (height width : Nat) : Nat := roundUp4 height / 4 * (roundUp4 width / 4)

theorem levelBlocks_pos (height width : Nat) : 0 < levelBlocks height width := by
  have hh := four_le_roundUp4 height
  have hw := four_le_roundUp4 width
  exact Nat.mul_pos (by omega) (by omega)

/-- A level of rounded size has 16 samples a block. -/
theorem roundUp4_mul_roundUp4 (height width : Nat) :
    roundUp4 height * roundUp4 width = 16 * levelBlocks height width := by
  rw [roundUp4_eq height, roundUp4_eq width, Nat.mul_mul_mul_comm]
  rfl

theorem levelSpan_dxt1 (pixelBytes height width : Nat) :
    levelSpan .dxt1 pixelBytes height width = some (8 * levelBlocks height width) := by
  rw [levelSpan, roundUp4_mul_roundUp4]
  congr 1; omega

theorem levelSpan_sixteen {tag : Tag} (h : tag = .dxt2 ∨ tag = .dxt3 ∨ tag = .dxt4 ∨ tag = .dxt5)
    (pixelBytes height width : Nat) : levelSpan tag pixelBytes height width = some (16 * levelBlocks height width) := by
  rw [← roundUp4_mul_roundUp4]
  obtain rfl | rfl | rfl | rfl := h <;> rfl

/-- Settles O55: both rounded sides are multiples of 4, so their product is 16 times the number of blocks. -/
theorem levelSpansAreWholeBlocks : Obligations.LevelSpansAreWholeBlocks := fun pixelBytes height width _ _ =>
  ⟨levelSpan_dxt1 .., fun _ htag => levelSpan_sixteen htag .., le_roundUp4 height,
    by rw [roundUp4_eq]; exact Nat.mul_mod_right .., four_le_roundUp4 height, roundUp4_lt height⟩

/-! ### The reassembly (R164) -/

/-- Cropping the rightmost block is cutting the row at `width`. -/
theorem columns_eq_min {width c : Nat} (hw : 0 < width) (hc : c < roundUp4 width / 4) :
    (if c + 1 = roundUp4 width / 4 then lastColumns width else 4) = min 4 (width - c * 4) := by
  have hround : roundUp4 width = (width + 3) / 4 * 4 := by unfold roundUp4; omega
  unfold lastColumns
  split
  · split <;> omega
  · omega

/-- A row of a band, pixel by pixel; `start` is where the band begins in the stream. -/
theorem bandRow_eq_map {width row start : Nat} {stream : List Word} (hw : 0 < width) (hrow : row < 4)
    (hstream : start + 4 * roundUp4 width ≤ stream.length) :
    bandRow width row ((stream.drop start).take (4 * roundUp4 width)) =
      (List.range width).map fun x => stream.getD (start + 16 * (x / 4) + 4 * row + x % 4) 0#32 := by
  have hwidth : min (roundUp4 width / 4 * 4) width = width := by
    have := le_roundUp4 width
    have := roundUp4_eq width
    omega
  rw [bandRow, ← hwidth, ← flatMap_map_range_pieces, hwidth]
  refine List.flatMap_congr fun c hc => ?_
  rw [List.mem_range] at hc
  rw [columns_eq_min hw hc, List.drop_take, List.take_take, List.drop_drop,
    take_drop_eq_map_getD 0#32 (by omega), Nat.min_eq_left (by omega)]
  refine List.map_congr_left fun j hj => ?_
  rw [List.mem_range] at hj
  congr 1; omega

/-- A band is its four rows from block-local row 3 down. -/
theorem band_rows {α : Type} (f : Nat → List α) : [3, 2, 1, 0].flatMap f = (List.range 4).flatMap fun j => f (3 - j) := rfl

/-- A band, pixel by pixel: row `j` of band `b` is image row `4*b + j`. -/
theorem band_eq_map {width height b : Nat} {stream : List Word} (hw : 0 < width)
    (hstream : stream.length = roundUp4 height * roundUp4 width) (hb : b < roundUp4 height / 4) :
    ([3, 2, 1, 0].flatMap fun row =>
      bandRow width row ((stream.drop (4 * roundUp4 width * b)).take (4 * roundUp4 width))) =
      (List.range 4).flatMap fun j =>
        (List.range width).map fun x => stream.getD (pixelIndex width x (b * 4 + j)) 0#32 := by
  have hfits : 4 * roundUp4 width * b + 4 * roundUp4 width ≤ stream.length := by
    rw [hstream, roundUp4_eq height, ← Nat.mul_succ, Nat.mul_right_comm]
    exact Nat.mul_le_mul_right _ (Nat.mul_le_mul_left _ hb)
  have hstart : 4 * roundUp4 width * b = 16 * (b * (roundUp4 width / 4)) := by
    rw [Nat.mul_comm b, ← Nat.mul_assoc]
    exact congrArg (· * b) (by have := roundUp4_eq width; omega)
  rw [band_rows]
  refine List.flatMap_congr fun j hj => ?_
  rw [List.mem_range] at hj
  have hdiv : (b * 4 + j) / 4 = b := by omega
  have hmod : (b * 4 + j) % 4 = j := by omega
  rw [bandRow_eq_map hw (by omega) hfits]
  refine List.map_congr_left fun x _ => ?_
  rw [pixelIndex, hdiv, hmod, hstart]
  congr 1; omega

theorem rowMajor_lt {width height x y : Nat} (hx : x < width) (hy : y < height) : y * width + x < width * height := by
  calc y * width + x < (y + 1) * width := by rw [Nat.succ_mul]; omega
    _ ≤ height * width := Nat.mul_le_mul_right _ hy
    _ = width * height := Nat.mul_comm ..

/-- The closed form of the reassembly, for the whole image. -/
theorem reassemble_eq_map {width height : Nat} {stream : List Word} (hw : 0 < width)
    (hstream : stream.length = roundUp4 height * roundUp4 width) :
    reassemble width height stream =
      (List.range (width * height)).map fun n => stream.getD (pixelIndex width (n % width) (n / width)) 0#32 := by
  have hrow : ∀ y ∈ List.range (roundUp4 height / 4 * 4),
      ((List.range width).map fun x => stream.getD (pixelIndex width x y) 0#32) = (List.range width).map fun x =>
        stream.getD (pixelIndex width ((y * width + x) % width) ((y * width + x) / width)) 0#32 := by
    intro y _
    refine List.map_congr_left fun x hx => ?_
    obtain ⟨hdiv, hmod⟩ := rowMajor_div_mod (List.mem_range.1 hx) y
    rw [hdiv, hmod]
  have hcut : min (width * height) (roundUp4 height / 4 * 4 * width) = width * height := by
    rw [Nat.mul_comm _ 4, ← roundUp4_eq, Nat.mul_comm width]
    exact Nat.min_eq_left (Nat.mul_le_mul_right _ (le_roundUp4 height))
  rw [reassemble, List.flatMap_congr fun b hb => band_eq_map hw hstream (List.mem_range.1 hb),
    flatMap_range_mul (fun y => (List.range width).map fun x => stream.getD (pixelIndex width x y) 0#32),
    List.flatMap_congr hrow,
    flatMap_map_range_mul (fun n => stream.getD (pixelIndex width (n % width) (n / width)) 0#32),
    ← List.map_take, List.take_range, hcut]

theorem reassemble_length {width height : Nat} {stream : List Word} (hw : 0 < width)
    (hstream : stream.length = roundUp4 height * roundUp4 width) :
    (reassemble width height stream).length = width * height := by
  rw [reassemble_eq_map hw hstream, List.length_map, List.length_range]

/-- The block of an image pixel is one of the level's. -/
theorem pixelBlock_lt {width height x y : Nat} (hx : x < width) (hy : y < height) :
    y / 4 * (roundUp4 width / 4) + x / 4 < levelBlocks height width := by
  have hx' : x / 4 < roundUp4 width / 4 := by unfold roundUp4; omega
  have hy' : y / 4 < roundUp4 height / 4 := by unfold roundUp4; omega
  exact (rowMajor_lt hx' hy').trans_eq (Nat.mul_comm ..)

theorem pixelIndex_lt {width height x y : Nat} (hx : x < width) (hy : y < height) :
    pixelIndex width x y < roundUp4 height * roundUp4 width := by
  have hblock := pixelBlock_lt hx hy
  rw [roundUp4_mul_roundUp4, pixelIndex]
  omega

/-- Settles O54: the bands, their rows and the columns of a row are the pixels of the image in row-major order, the cropping
leaves each row its `width` pixels and the truncation the image its `height` rows. -/
theorem reassemblyMatchesClosedForm : Obligations.ReassemblyMatchesClosedForm := by
  intro width height stream hw _ hstream
  refine ⟨reassemble_length hw hstream, fun x y hx hy => ?_⟩
  obtain ⟨hdiv, hmod⟩ := rowMajor_div_mod hx y
  have hlt : pixelIndex width x y < stream.length := hstream ▸ pixelIndex_lt hx hy
  rw [reassemble_eq_map hw hstream, List.getElem?_map, List.getElem?_range (rowMajor_lt hx hy), Option.map_some, hdiv, hmod,
    List.getD_eq_getElem?_getD, List.getElem?_eq_getElem hlt, Option.getD_some]

end Sys2Proof.Machine
end

section
/-! PROOFS. The obligation on the walk over the levels (46_downstream_contract.md R161, R162, R165, R166): what one step of the
walk takes, and when the whole walk succeeds. -/

namespace Sys2Proof.Machine

/-- A compressed level's span is what the command of its tag reads, block by block. -/
theorem levelSpan_compressed {tag : Tag} {i : Instr} (hi : unitCommand tag = some i) (htag : tag ≠ .none)
    (pixelBytes height width : Nat) :
    levelSpan tag pixelBytes height width = some (blockBytes i * levelBlocks height width) := by
  cases tag with
  | none => exact absurd rfl htag
  | dx10 | other => cases hi
  | dxt1 => cases hi; exact levelSpan_dxt1 ..
  | dxt2 | dxt3 | dxt4 | dxt5 => cases hi; exact levelSpan_sixteen (by simp) ..

theorem levelSpan_of_unsupported {tag : Tag} (h : unitCommand tag = none) (pixelBytes height width : Nat) :
    levelSpan tag pixelBytes height width = none := by
  cases tag with
  | dx10 | other => rfl
  | none | dxt1 | dxt2 | dxt3 | dxt4 | dxt5 => cases h

theorem exists_levelSpan_of_supported {tag : Tag} (h : unitCommand tag ≠ none) (pixelBytes height width : Nat) :
    ∃ span, levelSpan tag pixelBytes height width = some span := by
  cases tag with
  | dx10 | other => exact absurd rfl h
  | none | dxt1 | dxt2 | dxt3 | dxt4 | dxt5 => exact ⟨_, rfl⟩

/-- A walk that succeeds takes the first level's span off the input and goes on with the rest. -/
theorem takeLevels_cons_eq_ok {tag : Tag} {pixelBytes height width : Nat} {rest : List (Nat × Nat)} {input : List Byte}
    {levels : List Level} : takeLevels tag pixelBytes ((height, width) :: rest) input = .ok levels ↔
      ∃ span later, levelSpan tag pixelBytes height width = some span ∧ 0 < height ∧ 0 < width ∧ span ≤ input.length ∧
        takeLevels tag pixelBytes rest (input.drop span) = .ok later ∧
        levels = { height := height, width := width, bytes := input.take span } :: later := by
  rw [takeLevels]
  cases levelSpan tag pixelBytes height width with
  | none => simp
  | some span =>
    by_cases hzero : height = 0 ∨ width = 0
    · simp only [if_pos hzero, reduceCtorEq, false_iff]
      rintro ⟨_, _, -, hh, hw, -⟩
      omega
    · have hpos : 0 < height ∧ 0 < width := by omega
      by_cases hshort : input.length < span
      · simp only [if_neg hzero, if_pos hshort, reduceCtorEq, false_iff]
        rintro ⟨_, _, hspan, -, -, hle, -⟩
        cases hspan
        omega
      · simp only [if_neg hzero, if_neg hshort, Option.some.injEq, exists_and_left, exists_eq_left', hpos, true_and,
          Nat.le_of_not_lt hshort]
        cases takeLevels tag pixelBytes rest (input.drop span) <;> simp [eq_comm]

/-- A level with its own bytes: of positive size, and as many bytes as its span. -/
def Level.Sized (tag : Tag) (pixelBytes : Nat) (level : Level) : Prop :=
  0 < level.height ∧ 0 < level.width ∧ levelSpan tag pixelBytes level.height level.width = some level.bytes.length

theorem takeLevels_ok {tag : Tag} {pixelBytes : Nat} {dims : List (Nat × Nat)} {input : List Byte} {levels : List Level}
    (h : takeLevels tag pixelBytes dims input = .ok levels) :
    levels.map (fun l => (l.height, l.width)) = dims ∧ levels.flatMap (fun l => l.bytes) <+: input ∧
      ∀ l ∈ levels, l.Sized tag pixelBytes := by
  induction dims generalizing input levels with
  | nil => cases h; simp
  | cons d rest ih =>
    obtain ⟨height, width⟩ := d
    obtain ⟨span, later, hspan, hheight, hwidth, hle, hlater, rfl⟩ := takeLevels_cons_eq_ok.1 h
    obtain ⟨hdims, hprefix, hsized⟩ := ih hlater
    refine ⟨congrArg ((height, width) :: ·) hdims, ?_, List.forall_mem_cons.2 ⟨⟨hheight, hwidth, ?_⟩, hsized⟩⟩
    · have hjoined := (List.prefix_append_right_inj (input.take span)).2 hprefix
      rwa [List.take_append_drop] at hjoined
    · rw [hspan, List.length_take, Nat.min_eq_left hle]

theorem takeLevels_unsupported {tag : Tag} (htag : unitCommand tag = none) (pixelBytes : Nat) {dims : List (Nat × Nat)}
    (hdims : dims ≠ []) (input : List Byte) :
    takeLevels tag pixelBytes dims input = .error (.unsupportedCompression tag) := by
  cases dims with
  | nil => exact absurd rfl hdims
  | cons d rest => rw [takeLevels, levelSpan_of_unsupported htag]

/-- Enough bytes for the sum of the spans are enough for each level when its turn comes. -/
theorem exists_takeLevels_ok {tag : Tag} (htag : unitCommand tag ≠ none) {pixelBytes : Nat} {dims : List (Nat × Nat)}
    {input : List Byte} (hpos : ∀ d ∈ dims, 0 < d.1 ∧ 0 < d.2)
    (henough : (dims.map fun d => (levelSpan tag pixelBytes d.1 d.2).getD 0).sum ≤ input.length) :
    ∃ levels, takeLevels tag pixelBytes dims input = .ok levels := by
  induction dims generalizing input with
  | nil => exact ⟨[], rfl⟩
  | cons d rest ih =>
    obtain ⟨⟨hheight, hwidth⟩, hrest⟩ := List.forall_mem_cons.1 hpos
    obtain ⟨span, hspan⟩ := exists_levelSpan_of_supported htag pixelBytes d.1 d.2
    rw [List.map_cons, List.sum_cons, hspan, Option.getD_some] at henough
    obtain ⟨later, hlater⟩ := ih hrest (input := input.drop span) (by rw [List.length_drop]; omega)
    exact ⟨_, takeLevels_cons_eq_ok.2 ⟨span, later, hspan, hheight, hwidth, by omega, hlater, rfl⟩⟩

/-- Settles O56: each step of the walk takes its span from where the last one stopped. -/
theorem levelsTakeTheInputInOrder : Obligations.LevelsTakeTheInputInOrder := fun _ pixelBytes _ input =>
  ⟨fun _ => takeLevels_ok, fun htag hdims => takeLevels_unsupported htag pixelBytes hdims input⟩

theorem levelDims_eq (height width mips : Nat) :
    levelDims height width mips = (List.range (max mips 1)).map fun i => (height / 2 ^ i, width / 2 ^ i) := by
  simp only [levelDims, Nat.shiftRight_eq_div_pow]

theorem levelDims_ne_nil (height width mips : Nat) : levelDims height width mips ≠ [] := by
  simp [levelDims]

end Sys2Proof.Machine
end

section
/-! PROOFS. The host driving the block (46_downstream_contract.md R163, R164, R172): what a unit's writes do, what the samples
of a unit are, and the units of a level one after the other. -/

namespace Sys2Proof.Machine

/-! ### Sequences of actions -/

theorem perform_cons_of_next {a : HostAction} {s t : State} (h : performAction a s = .next t) (rest : List HostAction) :
    perform (a :: rest) s = perform rest t := by
  rw [perform, h]

theorem perform_append_of_ok {as : List HostAction} {s t : State} (h : perform as s = .ok t) (bs : List HostAction) :
    perform (as ++ bs) s = perform bs t := by
  rw [perform_append, h]
  rfl

theorem performAction_wr {r : Reg} {v : Word} {s t : State} (h : writeReg r v s = some t) :
    performAction (wr r v) s = .next (answered .done t) := by
  have hcmd : r ≠ .cmd := by rintro rfl; cases h
  refine (writeAccess_register hcmd v s).trans ?_
  rw [h]

theorem performAction_cmdLine {i : Instr} (hwf : i.wellFormed = true) {s : State} (hf : NoFault s) :
    performAction (cmdLine i) s = exec i (answered .done s) :=
  (performAction_commandWrite _ s).trans (runCommand_decoded hf (decode_encode hwf))

/-! ### The writes of a unit: loads and commands -/

/-- `t` holds in `CTRL`, the masks and `P_S2LE` what `s` holds: all that one unit of a level hands to the next. -/
structure SameSettings (s t : State) : Prop where
  alphaEn : t.alphaEn = s.alphaEn
  pixelBytes : t.pixelBytes = s.pixelBytes
  maskR : t.maskR = s.maskR
  maskG : t.maskG = s.maskG
  maskB : t.maskB = s.maskB
  maskA : t.maskA = s.maskA
  s2le : t.s2le = s.s2le

theorem SameSettings.refl (s : State) : SameSettings s s := ⟨rfl, rfl, rfl, rfl, rfl, rfl, rfl⟩

theorem SameSettings.trans {s t u : State} (h : SameSettings s t) (h' : SameSettings t u) : SameSettings s u :=
  ⟨h'.alphaEn.trans h.alphaEn, h'.pixelBytes.trans h.pixelBytes, h'.maskR.trans h.maskR, h'.maskG.trans h.maskG,
    h'.maskB.trans h.maskB, h'.maskA.trans h.maskA, h'.s2le.trans h.s2le⟩

theorem SameInputs.settings {s t : State} (h : SameInputs s t) : SameSettings s t :=
  ⟨h.alphaEn, h.pixelBytes, h.maskR, h.maskG, h.maskB, h.maskA, h.s2le⟩

theorem SameInputs.trans {s t u : State} (h : SameInputs s t) (h' : SameInputs t u) : SameInputs s u :=
  ⟨h'.alphaEn.trans h.alphaEn, h'.pixelBytes.trans h.pixelBytes, h'.maskR.trans h.maskR, h'.maskG.trans h.maskG,
    h'.maskB.trans h.maskB, h'.maskA.trans h.maskA, h'.ibuf.trans h.ibuf, h'.s2le.trans h.s2le⟩

theorem sameInputs_answered (a : Answer) (s : State) : SameInputs s (answered a s) :=
  ⟨rfl, rfl, rfl, rfl, rfl, rfl, rfl, rfl⟩

/-- What the host writes before it reads a unit back: words of `IBUF` and commands. -/
inductive UnitWrite : HostAction → Prop
  | load (j : Fin 4) (v : Word) : UnitWrite (wr (.ibuf j) v)
  | command (i : Instr) : UnitWrite (cmdLine i)

/-- What `n` writes of a unit leave of the state they start from: the settings, a latched fault, and the answers, to which each
adds its own. -/
structure AfterWrites (n : Nat) (s t : State) : Prop where
  settings : SameSettings s t
  fault : s.fault = true → t.fault = true
  answers : t.answers = List.replicate n .done ++ s.answers

theorem afterWrites_zero (s : State) : AfterWrites 0 s s := ⟨.refl s, id, rfl⟩

theorem AfterWrites.succ {n : Nat} {s t u : State} (h : AfterWrites 1 s t) (h' : AfterWrites n t u) :
    AfterWrites (n + 1) s u where
  settings := h.settings.trans h'.settings
  fault := h'.fault ∘ h.fault
  answers := by rw [h'.answers, h.answers, ← List.append_assoc, List.replicate_append_replicate]

theorem UnitWrite.exists_next {a : HostAction} (h : UnitWrite a) (s : State) :
    ∃ t, performAction a s = .next t ∧ AfterWrites 1 s t := by
  cases h with
  | load j v =>
    exact ⟨_, performAction_wr rfl, ⟨by simp, by simp, by simp, by simp, by simp, by simp, by simp⟩, by simp, by simp⟩
  | command i =>
    obtain ⟨t, ht⟩ := exists_runCommand_next (encode i) (answered .done s)
    refine ⟨t, (performAction_commandWrite _ s).trans ht, ?_⟩
    obtain ⟨-, rfl⟩ | ⟨-, -, rfl⟩ | ⟨hf, j, -, hx⟩ := runCommand_cases ht
    · exact ⟨(sameInputs_answered _ s).settings, id, rfl⟩
    · exact ⟨⟨rfl, rfl, rfl, rfl, rfl, rfl, rfl⟩, fun _ => rfl, rfl⟩
    · obtain ⟨-, -, hanswers⟩ := runCommand_sameRun ht
      exact ⟨((sameInputs_answered _ s).trans (exec_sameInputs hx)).settings,
        fun hs => absurd (hf.symm.trans hs) Bool.false_ne_true, hanswers⟩

theorem exists_perform_unitWrites {as : List HostAction} (h : ∀ a ∈ as, UnitWrite a) (s : State) :
    ∃ t, perform as s = .ok t ∧ AfterWrites as.length s t := by
  induction as generalizing s with
  | nil => exact ⟨s, rfl, afterWrites_zero s⟩
  | cons a rest ih =>
    obtain ⟨ha, hrest⟩ := List.forall_mem_cons.1 h
    obtain ⟨t, ht, hst⟩ := ha.exists_next s
    obtain ⟨u, hu, htu⟩ := ih hrest t
    exact ⟨u, (perform_cons_of_next ht rest).trans hu, hst.succ htu⟩

theorem afterWrites_of_perform {as : List HostAction} (h : ∀ a ∈ as, UnitWrite a) {s t : State}
    (ht : perform as s = .ok t) : AfterWrites as.length s t := by
  obtain ⟨u, hu, hsu⟩ := exists_perform_unitWrites h s
  obtain rfl : u = t := Except.ok.inj (hu.symm.trans ht)
  exact hsu

/-! ### Reading a unit back -/

/-- The state after `readBack n`: only the answers have grown. -/
def afterReadBack (n : Nat) (s : State) : State :=
  { s with answers := ((s.obuf.toList.take n).map .value).reverse ++ .value (statusWord s) :: s.answers }

theorem afterReadBack_settings (n : Nat) (s : State) : SameSettings s (afterReadBack n s) :=
  ⟨rfl, rfl, rfl, rfl, rfl, rfl, rfl⟩

theorem perform_rd_obuf (ns : List (Fin 16)) (s : State) : perform (ns.map fun n => rd (.obuf n)) s =
    .ok { s with answers := ((ns.map fun n => s.obuf[n]).map .value).reverse ++ s.answers } := by
  induction ns generalizing s with
  | nil => rfl
  | cons n rest ih =>
    have hread : performAction (rd (.obuf n)) s = .next (answered (.value s.obuf[n]) s) :=
      congrArg (fun a => Host.Outcome.next (answered a s)) (readAnswer_of_readReg (.obuf n) rfl)
    rw [List.map_cons, perform_cons_of_next hread, ih]
    simp [answered]

theorem map_obuf_take (n : Nat) (s : State) :
    ((List.finRange 16).take n).map (fun k => s.obuf[k]) = s.obuf.toList.take n := by
  rw [List.map_take]
  congr 1
  exact List.ext_getElem (by simp) (by simp)

theorem perform_readBack (n : Nat) (s : State) : perform (readBack n) s = .ok (afterReadBack n s) := by
  have hread : performAction (rd .status) s = .next (answered (.value (statusWord s)) s) :=
    congrArg (fun a => Host.Outcome.next (answered a s)) (readAnswer_of_readReg .status rfl)
  rw [readBack, perform_cons_of_next hread, perform_rd_obuf, afterReadBack, ← map_obuf_take]
  rfl

theorem statusWord_fault (s : State) : (statusWord s).getLsbD 0 = s.fault := by
  rw [BitVec.getLsbD, statusWord_toNat, Nat.testBit_zero]
  cases s.fault <;> simp <;> omega

/-- A sequence whose answers, oldest first, hold a status and samples and no refusal. -/
theorem unitSamples_of_answers {actions : List HostAction} {s t : State} {news : List Answer} {status : Word}
    {samples : List Word} (h : perform actions s = .ok t) (hnews : t.answers = news.reverse ++ s.answers)
    (hread : news.filterMap Answer.read? = status :: samples) (hok : .accessError ∉ news) : unitSamples actions s =
      if status.getLsbD 0 then .error (.blockFault status) else .ok (samples, t) := by
  have hanswers : (t.answers.take (t.answers.length - s.answers.length)).reverse = news := by
    rw [hnews, List.length_append, Nat.add_sub_cancel, List.take_left, List.reverse_reverse]
  simp only [unitSamples, h, hanswers, hread, if_neg hok]

/-- What a unit gives the host: the fault its writes end with, or the samples they leave in `OBUF`. -/
theorem unitSamples_append_readBack {as : List HostAction} (hwrites : ∀ a ∈ as, UnitWrite a) (n : Nat) {s t : State}
    (h : perform as s = .ok t) : unitSamples (as ++ readBack n) s =
      if t.fault then .error (.blockFault (statusWord t)) else .ok (t.obuf.toList.take n, afterReadBack n t) := by
  rw [← statusWord_fault]
  refine unitSamples_of_answers (status := statusWord t)
    (news := List.replicate as.length .done ++ .value (statusWord t) :: (t.obuf.toList.take n).map .value) ?_ ?_ ?_ ?_
  · rw [perform_append_of_ok h, perform_readBack]
  · simp [afterReadBack, (afterWrites_of_perform hwrites h).answers]
  · have hvalue : Answer.read? ∘ Answer.value = some := rfl
    rw [List.filterMap_append, List.filterMap_replicate_of_none rfl, List.nil_append,
      ← List.map_cons, List.filterMap_map, hvalue, List.filterMap_some]
  · intro hmem
    obtain hdone | hvalue := List.mem_append.1 hmem
    · cases List.eq_of_mem_replicate hdone
    · obtain ⟨v, -, hv⟩ := List.mem_map.1 ((List.mem_cons.1 hvalue).resolve_left nofun)
      cases hv

/-- A unit whose writes end without a fault: its samples, and what it leaves for the next unit. -/
theorem unitSamples_of_noFault {as : List HostAction} (hwrites : ∀ a ∈ as, UnitWrite a) (n : Nat) {s t : State}
    (h : perform as s = .ok t) (hf : NoFault t) :
    ∃ u, unitSamples (as ++ readBack n) s = .ok (t.obuf.toList.take n, u) ∧ NoFault u ∧ SameSettings s u := by
  refine ⟨afterReadBack n t, ?_, hf, (afterWrites_of_perform hwrites h).settings.trans (afterReadBack_settings n t)⟩
  rw [unitSamples_append_readBack hwrites n h, hf]
  rfl

theorem unitSamples_of_fault {as : List HostAction} (hwrites : ∀ a ∈ as, UnitWrite a) (n : Nat) {s t : State}
    (h : perform as s = .ok t) (hf : t.fault = true) :
    unitSamples (as ++ readBack n) s = .error (.blockFault (statusWord t)) := by
  rw [unitSamples_append_readBack hwrites n h, hf]
  rfl

/-! ### Units one after the other -/

theorem decodeUnits_cons_of_ok {unit : List HostAction} {s t : State} {samples : List Word}
    (h : unitSamples unit s = .ok (samples, t)) {rest : List (List HostAction)} {u : State} {more : List Word}
    (hrest : decodeUnits rest t = .ok (more, u)) : decodeUnits (unit :: rest) s = .ok (samples ++ more, u) := by
  simp only [decodeUnits, h, hrest]

/-- Units that each give their samples from any unlatched state with the settings of `s` give them joined. -/
theorem decodeUnits_map {unit : Nat → List HostAction} {samples : Nat → List Word} {s : State} {ks : List Nat}
    (h : ∀ k ∈ ks, ∀ t, NoFault t → SameSettings s t →
      ∃ u, unitSamples (unit k) t = .ok (samples k, u) ∧ NoFault u ∧ SameSettings t u)
    {t : State} (hf : NoFault t) (hst : SameSettings s t) :
    ∃ u, decodeUnits (ks.map unit) t = .ok (ks.flatMap samples, u) ∧ NoFault u ∧ SameSettings t u := by
  induction ks generalizing t with
  | nil => exact ⟨t, rfl, hf, .refl t⟩
  | cons k rest ih =>
    obtain ⟨hk, hrest⟩ := List.forall_mem_cons.1 h
    obtain ⟨u, hu, huf, htu⟩ := hk t hf hst
    obtain ⟨v, hv, hvf, huv⟩ := ih hrest huf (hst.trans htu)
    exact ⟨v, decodeUnits_cons_of_ok hu hv, hvf, htu.trans huv⟩

/-- A level whose first unit fails fails. -/
theorem decodeUnits_error {units : List (List HostAction)} {s : State} (hne : units ≠ [])
    (h : ∀ unit ∈ units, ∃ e, unitSamples unit s = .error e) : ∃ e, decodeUnits units s = .error e := by
  cases units with
  | nil => exact absurd rfl hne
  | cons unit rest =>
    obtain ⟨e, he⟩ := h unit List.mem_cons_self
    exact ⟨e, by rw [decodeUnits, he]⟩

end Sys2Proof.Machine
end

section
/-! PROOFS. The two kinds of unit (46_downstream_contract.md R163, R164): the load, a block decode and a run of `pix`, each as
the samples the command makes of the bytes loaded. -/

namespace Sys2Proof.Machine

/-! ### The load (R56, R163) -/

theorem ibufByte_eq_getD (s : State) (k : Nat) : ibufByte s k = s.ibuf[k]?.getD 0#8 := by
  by_cases h : k < 16
  · rw [ibufByte_of_lt s h, Vector.getElem?_eq_getElem h, Option.getD_some]
  · rw [Vector.getElem?_eq_none (Nat.le_of_not_lt h)]
    simp [ibufByte, h]

theorem streamWord_extractLsb' (bytes : List Byte) (j : Nat) {d : Nat} (hd : d < 4) :
    (streamWord bytes j).extractLsb' (8 * d) 8 = bytes.getD (4 * j + d) 0#8 :=
  packBytes_extractLsb' (fun d => bytes.getD (4 * j + d) 0#8) ⟨d, hd⟩

/-- The first `m` words of the load put the first `4 * m` bytes in place. -/
theorem perform_loadWords (bytes : List Byte) (s : State) {m : Nat} (hm : m ≤ 4) :
    ∃ t, perform (((List.finRange 4).take m).map fun j => wr (.ibuf j) (streamWord bytes j.val)) s = .ok t ∧
      t.fault = s.fault ∧ ∀ k < 4 * m, ibufByte t k = bytes.getD k 0#8 := by
  induction m with
  | zero => exact ⟨s, rfl, rfl, fun k hk => absurd hk (Nat.not_lt_zero k)⟩
  | succ m ih =>
    obtain ⟨t, ht, hfault, hbytes⟩ := ih (Nat.le_of_succ_le hm)
    have hword : (List.finRange 4)[m]? = some ⟨m, hm⟩ := by
      rw [List.getElem?_eq_getElem (by simpa using hm), List.getElem_finRange]
      rfl
    refine ⟨answered .done (writeIbufWord ⟨m, hm⟩ (streamWord bytes m) t), ?_, by simp [hfault], fun k hk => ?_⟩
    · rw [List.take_add_one, hword, List.map_append, perform_append_of_ok ht]
      exact perform_cons_of_next (performAction_wr rfl) []
    · have hbyte := writeIbufWord_getElem? ⟨m, hm⟩ (streamWord bytes m) t k
      rw [ibufByte_eq_getD, answered_ibuf, hbyte]
      by_cases hlast : k / 4 = m
      · rw [if_pos hlast, Option.getD_some, streamWord_extractLsb' bytes m (by omega)]
        congr 1; omega
      · rw [if_neg hlast, ← ibufByte_eq_getD, hbytes k (by omega)]

/-- Up to 16 bytes are loaded in order. -/
theorem perform_loadIbuf {bytes : List Byte} (h : bytes.length ≤ 16) (s : State) :
    ∃ t, perform (loadIbuf bytes) s = .ok t ∧ t.fault = s.fault ∧ Loaded bytes t := by
  obtain ⟨t, ht, hfault, hbytes⟩ := perform_loadWords bytes s (m := (bytes.length + 3) / 4) (by omega)
  refine ⟨t, ht, hfault, fun k hk => ⟨by omega, ?_⟩⟩
  rw [hbytes k (by omega), List.getD_eq_getElem _ _ hk]

theorem unitWrite_of_mem_loadIbuf {bytes : List Byte} {a : HostAction} (h : a ∈ loadIbuf bytes) : UnitWrite a := by
  obtain ⟨j, -, rfl⟩ := List.mem_map.1 h
  exact .load j _

/-- `s` with the first bytes of `bytes` in `IBUF`. -/
def holding (s : State) (bytes : List Byte) : State := { s with ibuf := Vector.ofFn fun k => bytes.getD k.val 0#8 }

@[simp] theorem holding_alphaEn (s : State) (bytes : List Byte) : (holding s bytes).alphaEn = s.alphaEn := by
  simp only [holding]
@[simp] theorem holding_s2le (s : State) (bytes : List Byte) : (holding s bytes).s2le = s.s2le := by
  simp only [holding]

theorem ibufByte_holding (s : State) (bytes : List Byte) {k : Nat} (h : k < 16) :
    ibufByte (holding s bytes) k = bytes.getD k 0#8 := by
  rw [ibufByte_of_lt _ h]
  exact Vector.getElem_ofFn h

theorem ibufByte_holding_drop (s : State) (bytes : List Byte) (start : Nat) {k : Nat} (h : k < 16) :
    ibufByte (holding s (bytes.drop start)) k = bytes.getD (start + k) 0#8 := by
  rw [ibufByte_holding s _ h, List.getD_eq_getElem?_getD, List.getElem?_drop, List.getD_eq_getElem?_getD]

theorem Loaded.ibufByte_eq_holding {bytes : List Byte} {t : State} (h : Loaded bytes t) (s : State) {k : Nat}
    (hk : k < bytes.length) : ibufByte t k = ibufByte (holding s bytes) k := by
  obtain ⟨hlt, hbyte⟩ := h k hk
  rw [hbyte, ibufByte_holding s bytes hlt, List.getD_eq_getElem _ _ hk]

/-! ### A compressed block (R164, R172) -/

/-- The commands of the compressed tags. -/
def IsBlockCommand (i : Instr) : Prop := i = .dxt1 ∨ i = .dxt2 ∨ i = .dxt3 ∨ i = .dxt4 ∨ i = .dxt5

theorem isBlockCommand_of_unitCommand {tag : Tag} {i : Instr} (hi : unitCommand tag = some i) (htag : tag ≠ .none) :
    IsBlockCommand i := by
  cases tag with
  | none => exact absurd rfl htag
  | dx10 | other => cases hi
  | dxt1 | dxt2 | dxt3 | dxt4 | dxt5 => cases hi; simp [IsBlockCommand]

theorem IsBlockCommand.wellFormed {i : Instr} (h : IsBlockCommand i) : i.wellFormed = true := by
  obtain rfl | rfl | rfl | rfl | rfl := h <;> rfl

theorem IsBlockCommand.exists_next {i : Instr} (h : IsBlockCommand i) (s : State) : ∃ t, exec i s = .next t := by
  obtain rfl | rfl | rfl | rfl | rfl := h <;> exact ⟨_, rfl⟩

theorem blockBytes_pos (i : Instr) : 0 < blockBytes i := by
  unfold blockBytes; split <;> decide

theorem blockBytes_le (i : Instr) : blockBytes i ≤ 16 := by
  unfold blockBytes; split <;> decide

/-- What the bytes of a block decode to depends on nothing but them, the flag and `P_S2LE` (20_memory.md R60, R62). -/
theorem exec_block_obuf_congr {i : Instr} (hi : IsBlockCommand i) {s s' t t' : State}
    (hbytes : ∀ k : Nat, k < blockBytes i → ibufByte s k = ibufByte s' k) (halpha : s.alphaEn = s'.alphaEn)
    (hs2le : s.s2le = s'.s2le) (h : exec i s = .next t) (h' : exec i s' = .next t') : t.obuf = t'.obuf := by
  by_cases hdxt1 : i = .dxt1
  · subst hdxt1
    exact (dxt1IgnoresUpperHalf s s' t t' hbytes halpha hs2le h h').2
  · rw [blockBytes, if_neg hdxt1] at hbytes
    have hibuf : s.ibuf = s'.ibuf := Vector.ext fun k hk => by
      rw [← ibufByte_of_lt s hk, ← ibufByte_of_lt s' hk, hbytes k hk]
    obtain rfl | rfl | rfl | rfl | rfl := hi
    · exact absurd rfl hdxt1
    all_goals
      cases h
      cases h'
      simp only [decode23, decode45, writeTexels_obuf, dxt23Texel_congr hibuf hs2le, dxt45Texel_congr hibuf hs2le]

/-- The sixteen samples of a block command. -/
def decodedBlock (i : Instr) (s : State) : Vector Word 16 :=
  match exec i s with
  | .next t => t.obuf
  | .fault _ => s.obuf
  | .refused _ => s.obuf

theorem decodedBlock_of_exec {i : Instr} {s t : State} (h : exec i s = .next t) : decodedBlock i s = t.obuf := by
  rw [decodedBlock, h]

theorem decodedBlock_congr {i : Instr} (hi : IsBlockCommand i) {s s' : State}
    (hbytes : ∀ k : Nat, k < blockBytes i → ibufByte s k = ibufByte s' k) (halpha : s.alphaEn = s'.alphaEn)
    (hs2le : s.s2le = s'.s2le) : decodedBlock i s = decodedBlock i s' := by
  obtain ⟨t, ht⟩ := hi.exists_next s
  obtain ⟨t', ht'⟩ := hi.exists_next s'
  rw [decodedBlock_of_exec ht, decodedBlock_of_exec ht', exec_block_obuf_congr hi hbytes halpha hs2le ht ht']

theorem ldib8_eq_loadIbuf {bytes : List Byte} (h : bytes.length = 8) : ldib8 bytes = loadIbuf bytes := by
  rw [loadIbuf, h]
  rfl

theorem ldib_eq_loadIbuf {bytes : List Byte} (h : bytes.length = 16) : ldib bytes = loadIbuf bytes := by
  rw [loadIbuf, h]
  rfl

theorem blockSequence_eq {i : Instr} {bytes : List Byte} (h : bytes.length = blockBytes i) :
    blockSequence i bytes = loadIbuf bytes ++ [cmdLine i] ++ readBack 16 := by
  rw [blockBytes] at h
  rw [blockSequence]
  split at h
  case isTrue hi => rw [if_pos hi, ldib8_eq_loadIbuf h]
  case isFalse hi => rw [if_neg hi, ldib_eq_loadIbuf h]

theorem unitWrite_of_mem_blockWrites {i : Instr} {bytes : List Byte} :
    ∀ a ∈ loadIbuf bytes ++ [cmdLine i], UnitWrite a := by
  intro a ha
  obtain hload | hcmd := List.mem_append.1 ha
  · exact unitWrite_of_mem_loadIbuf hload
  · obtain rfl := List.mem_singleton.1 hcmd
    exact .command i

/-- A block's unit gives the samples its command makes of its bytes. -/
theorem unitSamples_block {i : Instr} (hi : IsBlockCommand i) {bytes : List Byte} (hlen : bytes.length = blockBytes i)
    {s : State} (hf : NoFault s) : ∃ u, unitSamples (blockSequence i bytes) s =
      .ok ((decodedBlock i (holding s bytes)).toList, u) ∧ NoFault u ∧ SameSettings s u := by
  obtain ⟨t, ht, htf, hloaded⟩ := perform_loadIbuf (hlen.trans_le (blockBytes_le i)) s
  have hst : SameSettings s t := (afterWrites_of_perform (fun _ => unitWrite_of_mem_loadIbuf) ht).settings
  obtain ⟨v, hv⟩ := hi.exists_next (answered .done t)
  have hperform : perform (loadIbuf bytes ++ [cmdLine i]) s = .ok v := by
    rw [perform_append_of_ok ht]
    exact perform_cons_of_next ((performAction_cmdLine hi.wellFormed (htf.trans hf)).trans hv) []
  have hvf : NoFault v := (exec_block_sameLatch hv hi).1.trans (htf.trans hf)
  have hbytes : ∀ k < blockBytes i, ibufByte (answered .done t) k = ibufByte (holding s bytes) k := fun k hk =>
    (ibufByte_congr (answered_ibuf .done t) k).trans (hloaded.ibufByte_eq_holding s (hk.trans_eq hlen.symm))
  have hobuf : v.obuf = decodedBlock i (holding s bytes) :=
    (decodedBlock_of_exec hv).symm.trans
      (decodedBlock_congr hi hbytes (by simp [hst.alphaEn]) (by simp [hst.s2le]))
  have hsamples := unitSamples_of_noFault unitWrite_of_mem_blockWrites 16 hperform hvf
  rwa [← blockSequence_eq hlen, hobuf, List.take_of_length_le (Vector.length_toList ..).le] at hsamples

/-! ### A run of pixels (R91, R163) -/

/-- The pixel word of pixel `j` of `bytes`. -/
def heldWord (s : State) (bytes : List Byte) (j : Nat) : Word :=
  BitVec.ofNat 32 (memRead (holding s (bytes.drop (j * s.pixelBytes.toNat))) 0 s.pixelBytes.toNat)

/-- The sample of pixel `j` of `bytes`. -/
def heldPixel (s : State) (bytes : List Byte) (j : Nat) : Word := pixelSample s (heldWord s bytes j)

theorem memRead_holding_drop (s : State) (bytes : List Byte) (start : Nat) {n : Nat} (hn : n ≤ 16) :
    memRead (holding s (bytes.drop start)) 0 n =
      ∑ k ∈ Finset.range n, (bytes.getD (start + k) 0#8).toNat * 256 ^ k := by
  rw [memRead_eq_sum]
  refine Finset.sum_congr rfl fun k hk => ?_
  rw [Nat.zero_add, ibufByte_holding_drop s bytes start ((Finset.mem_range.1 hk).trans_le hn)]

theorem pixelBytes_le_sixteen (s : State) : s.pixelBytes.toNat ≤ 16 := by
  have := s.pixelBytes.isLt
  omega

theorem heldWord_toNat {s : State} (hle : s.pixelBytes.toNat ≤ 4) (bytes : List Byte) (j : Nat) :
    (heldWord s bytes j).toNat = ∑ k ∈ Finset.range s.pixelBytes.toNat,
      (bytes.getD (j * s.pixelBytes.toNat + k) 0#8).toNat * 256 ^ k := by
  have hlt : memRead (holding s (bytes.drop (j * s.pixelBytes.toNat))) 0 s.pixelBytes.toNat < 2 ^ 32 :=
    (memRead_lt ..).trans_le (Nat.pow_le_pow_right (n := 256) (by decide) hle)
  rw [heldWord, BitVec.toNat_ofNat, Nat.mod_eq_of_lt hlt, memRead_holding_drop _ _ _ (pixelBytes_le_sixteen s)]

/-- A pixel depends on the settings and its own bytes only. -/
theorem heldPixel_congr {s t : State} (hst : SameSettings s t) {bytes bytes' : List Byte} {j j' : Nat}
    (h : ∀ k < s.pixelBytes.toNat,
      bytes'.getD (j' * s.pixelBytes.toNat + k) 0#8 = bytes.getD (j * s.pixelBytes.toNat + k) 0#8) :
    heldPixel t bytes' j' = heldPixel s bytes j := by
  have hword : heldWord t bytes' j' = heldWord s bytes j := by
    have hle := pixelBytes_le_sixteen s
    rw [heldWord, heldWord, hst.pixelBytes, memRead_holding_drop _ _ _ hle, memRead_holding_drop _ _ _ hle,
      Finset.sum_congr rfl fun k hk => by rw [h k (Finset.mem_range.1 hk)]]
  rw [heldPixel, heldPixel, hword, pixelSample_congr hst.maskR hst.maskG hst.maskB hst.maskA]

/-- What `pix` makes of a loaded pixel. -/
theorem Loaded.pixelSample_eq {bytes : List Byte} {s t : State} (h : Loaded bytes t) (hst : SameSettings s t)
    (hpos : 1 ≤ s.pixelBytes.toNat) {j : Nat} (hj : (j + 1) * s.pixelBytes.toNat ≤ bytes.length) :
    pixelSample t (pixelWord t (BitVec.ofNat 4 (j * t.pixelBytes.toNat))) = heldPixel s bytes j := by
  rw [Nat.succ_mul] at hj
  have hbyte : ∀ k < s.pixelBytes.toNat, j * s.pixelBytes.toNat + k < 16 ∧
      ibufByte t (j * s.pixelBytes.toNat + k) = bytes.getD (j * s.pixelBytes.toNat + k) 0#8 := by
    intro k hk
    obtain ⟨hlt, hget⟩ := h (j * s.pixelBytes.toNat + k) (by omega)
    exact ⟨hlt, by rw [hget, List.getD_eq_getElem]⟩
  have hsrc : (BitVec.ofNat 4 (j * s.pixelBytes.toNat)).toNat = j * s.pixelBytes.toNat :=
    Nat.mod_eq_of_lt (hbyte 0 hpos).1
  have hword : pixelWord t (BitVec.ofNat 4 (j * t.pixelBytes.toNat)) = heldWord s bytes j := by
    rw [pixelWord, heldWord, hst.pixelBytes, memRead_eq_sum, hsrc, memRead_holding_drop _ _ _ (pixelBytes_le_sixteen s),
      Finset.sum_congr rfl fun k hk => by rw [(hbyte k (Finset.mem_range.1 hk)).2]]
  rw [hword, heldPixel, pixelSample_congr hst.maskR hst.maskG hst.maskB hst.maskA]

/-- The `pix` lines of a load, the operands as R163 gives them. -/
def pixLines (pixelBytes n : Nat) : List HostAction :=
  (List.range n).map fun j => cmdLine (.pix (BitVec.ofNat 4 (j * pixelBytes)) (BitVec.ofNat 4 j))

theorem pixLines_succ (pixelBytes n : Nat) : pixLines pixelBytes (n + 1) =
    pixLines pixelBytes n ++ [cmdLine (.pix (BitVec.ofNat 4 (n * pixelBytes)) (BitVec.ofNat 4 n))] := by
  rw [pixLines, List.range_succ, List.map_append]
  rfl

theorem pixelSequence_eq (pixelBytes n : Nat) (bytes : List Byte) :
    pixelSequence pixelBytes n bytes = loadIbuf bytes ++ pixLines pixelBytes n ++ readBack n := rfl

theorem unitWrite_of_mem_pixLines {pixelBytes n : Nat} {a : HostAction} (h : a ∈ pixLines pixelBytes n) : UnitWrite a := by
  obtain ⟨j, -, rfl⟩ := List.mem_map.1 h
  exact .command _

theorem unitWrite_of_mem_pixelWrites {pixelBytes n : Nat} {bytes : List Byte} :
    ∀ a ∈ loadIbuf bytes ++ pixLines pixelBytes n, UnitWrite a := by
  intro a ha
  obtain hload | hpix := List.mem_append.1 ha
  · exact unitWrite_of_mem_loadIbuf hload
  · exact unitWrite_of_mem_pixLines hpix

theorem sameInputs_writeSample (dst : BitVec 4) (v : Word) (s : State) : SameInputs s (writeSample dst v s) :=
  ⟨rfl, rfl, rfl, rfl, rfl, rfl, rfl, rfl⟩

theorem performAction_pixLine {s : State} (hf : NoFault s) (hpos : 1 ≤ s.pixelBytes.toNat) (hle : s.pixelBytes.toNat ≤ 4)
    {src : BitVec 4} (hfits : src.toNat + s.pixelBytes.toNat ≤ 16) (dst : BitVec 4) :
    performAction (cmdLine (.pix src dst)) s =
      .next (writeSample dst (pixelSample s (pixelWord s src)) (answered .done s)) := by
  refine (performAction_cmdLine rfl hf).trans ((exec_pix_of_fits (s := answered .done s) hpos hle hfits dst).trans ?_)
  rw [pixelWord_congr (s := answered .done s) (t := s) rfl rfl,
    pixelSample_congr (s := answered .done s) (t := s) rfl rfl rfl rfl]

/-- Pixels that fit `IBUF` go to `OBUF` one after the other. -/
theorem perform_pixLines {s : State} (hf : NoFault s) (hpos : 1 ≤ s.pixelBytes.toNat) (hle : s.pixelBytes.toNat ≤ 4)
    {n : Nat} (hfits : n * s.pixelBytes.toNat ≤ 16) :
    ∃ t, perform (pixLines s.pixelBytes.toNat n) s = .ok t ∧ NoFault t ∧ SameInputs s t ∧
      ∀ j < n, t.obuf[j]? = some (pixelSample s (pixelWord s (BitVec.ofNat 4 (j * s.pixelBytes.toNat)))) := by
  induction n with
  | zero => exact ⟨s, rfl, hf, .refl s, fun j hj => absurd hj (Nat.not_lt_zero j)⟩
  | succ n ih =>
    rw [Nat.succ_mul] at hfits
    obtain ⟨t, ht, htf, hst, hsamples⟩ := ih (by omega)
    have hdst : (BitVec.ofNat 4 n).toNat = n :=
      Nat.mod_eq_of_lt ((Nat.le_mul_of_pos_right n hpos).trans_lt (by omega))
    have hsrc : (BitVec.ofNat 4 (n * s.pixelBytes.toNat)).toNat = n * s.pixelBytes.toNat := Nat.mod_eq_of_lt (by omega)
    have hpix := performAction_pixLine (src := BitVec.ofNat 4 (n * s.pixelBytes.toNat)) htf (hst.pixelBytes ▸ hpos)
      (hst.pixelBytes ▸ hle) (by rw [hst.pixelBytes, hsrc]; exact hfits) (BitVec.ofNat 4 n)
    rw [pixelWord_congr hst.ibuf hst.pixelBytes, pixelSample_congr hst.maskR hst.maskG hst.maskB hst.maskA] at hpix
    rw [pixLines_succ]
    refine ⟨_, (perform_append_of_ok ht _).trans (perform_cons_of_next hpix []),
      (writeSample_fault _ _ (answered .done t)).trans htf,
      (hst.trans (sameInputs_answered .done t)).trans (sameInputs_writeSample ..), fun j hj => ?_⟩
    rw [writeSample_obuf, Vector.getElem?_set, hdst]
    by_cases hlast : n = j
    · rw [if_pos hlast, hlast]
    · rw [if_neg hlast]
      exact hsamples j (by omega)

/-- A unit of `n` pixels gives their samples. -/
theorem unitSamples_pixels {s : State} (hf : NoFault s) (hpos : 1 ≤ s.pixelBytes.toNat) (hle : s.pixelBytes.toNat ≤ 4)
    {n : Nat} {bytes : List Byte} (hlen : bytes.length = n * s.pixelBytes.toNat) (hfits : n * s.pixelBytes.toNat ≤ 16) :
    ∃ u, unitSamples (pixelSequence s.pixelBytes.toNat n bytes) s = .ok ((List.range n).map (heldPixel s bytes), u) ∧
      NoFault u ∧ SameSettings s u := by
  obtain ⟨t, ht, htf, hloaded⟩ := perform_loadIbuf (hlen.trans_le hfits) s
  have hst : SameSettings s t := (afterWrites_of_perform (fun _ => unitWrite_of_mem_loadIbuf) ht).settings
  rw [← hst.pixelBytes] at hpos hle hfits
  obtain ⟨v, hv, hvf, hvt, hsamples⟩ := perform_pixLines (htf.trans hf) hpos hle hfits
  rw [hst.pixelBytes] at hv
  have hperform : perform (loadIbuf bytes ++ pixLines s.pixelBytes.toNat n) s = .ok v :=
    (perform_append_of_ok ht _).trans hv
  have hobuf : v.obuf.toList.take n = (List.range n).map (heldPixel s bytes) := by
    have hn : n ≤ 16 := (Nat.le_mul_of_pos_right n hpos).trans hfits
    refine List.ext_getElem (by simpa using hn) fun j _ hj => ?_
    rw [List.length_map, List.length_range] at hj
    have hfull : (j + 1) * s.pixelBytes.toNat ≤ bytes.length := hlen ▸ Nat.mul_le_mul_right _ hj
    rw [List.getElem_take, Vector.getElem_toList, List.getElem_map, List.getElem_range,
      ← hloaded.pixelSample_eq hst (hst.pixelBytes ▸ hpos) hfull]
    exact Option.some.inj ((Vector.getElem?_eq_getElem _).symm.trans (hsamples j hj))
  have hunit := unitSamples_of_noFault unitWrite_of_mem_pixelWrites n hperform hvf
  rwa [← pixelSequence_eq, hobuf] at hunit

end Sys2Proof.Machine
end

section
/-! PROOFS. The obligations on whole levels and on the whole decode (46_downstream_contract.md R161 to R167): the samples of a
level's units joined, when a level fails, and the levels one after the other. -/

namespace Sys2Proof.Machine

/-! ### A compressed level (R164) -/

/-- The stream of samples of a level's `count` blocks. -/
def blockStream (i : Instr) (s : State) (bytes : List Byte) (count : Nat) : List Word :=
  (List.range count).flatMap fun q => (decodedBlock i (holding s (bytes.drop (q * blockBytes i)))).toList

theorem blockStream_eq_map (i : Instr) (s : State) (bytes : List Byte) (count : Nat) : blockStream i s bytes count =
    (List.range (count * 16)).map fun n =>
      (decodedBlock i (holding s (bytes.drop (n / 16 * blockBytes i)))).toList.getD (n % 16) 0#32 :=
  flatMap_range_eq_map (fun _ _ => Vector.length_toList ..) 0#32

theorem blockStream_length (i : Instr) (s : State) (bytes : List Byte) (count : Nat) :
    (blockStream i s bytes count).length = count * 16 := by
  rw [blockStream_eq_map, List.length_map, List.length_range]

/-- Sample `e` of block `q`. -/
theorem blockStream_getElem? (i : Instr) (s : State) (bytes : List Byte) {count q e : Nat} (hq : q < count) (he : e < 16) :
    (blockStream i s bytes count)[16 * q + e]? =
      (decodedBlock i (holding s (bytes.drop (q * blockBytes i))))[e]? := by
  have hlt : q * 16 + e < count * 16 := by omega
  obtain ⟨hdiv, hmod⟩ := rowMajor_div_mod he q
  rw [Nat.mul_comm, blockStream_eq_map, List.getElem?_map, List.getElem?_range hlt, Option.map_some, hdiv, hmod,
    List.getD_eq_getElem _ _ (by simpa using he), Vector.getElem_toList, Vector.getElem?_eq_getElem he]

theorem blockUnits_eq_map {i : Instr} {bytes : List Byte} {count : Nat} (hlen : bytes.length = blockBytes i * count) :
    blockUnits i bytes = (List.range count).map fun q =>
      blockSequence i ((bytes.drop (q * blockBytes i)).take (blockBytes i)) := by
  rw [blockUnits, hlen, Nat.mul_div_cancel_left _ (blockBytes_pos i)]

theorem block_length {i : Instr} {bytes : List Byte} {count q : Nat} (hlen : bytes.length = blockBytes i * count)
    (hq : q < count) : ((bytes.drop (q * blockBytes i)).take (blockBytes i)).length = blockBytes i := by
  have hfits : (q + 1) * blockBytes i ≤ bytes.length := by
    rw [hlen, Nat.mul_comm]
    exact Nat.mul_le_mul_left _ hq
  rw [Nat.succ_mul] at hfits
  rw [List.length_take, List.length_drop]
  omega

/-- The blocks of a level decode one after the other. -/
theorem decodeUnits_blocks {i : Instr} (hi : IsBlockCommand i) {bytes : List Byte} {count : Nat}
    (hlen : bytes.length = blockBytes i * count) {s : State} (hf : NoFault s) :
    ∃ u, decodeUnits (blockUnits i bytes) s = .ok (blockStream i s bytes count, u) ∧ NoFault u ∧ SameSettings s u := by
  rw [blockUnits_eq_map hlen]
  refine decodeUnits_map (fun q hq t htf hst => ?_) hf (.refl s)
  obtain ⟨u, hu, huf, htu⟩ := unitSamples_block hi (block_length hlen (List.mem_range.1 hq)) htf
  have hbytes : ∀ k < blockBytes i, ibufByte (holding t ((bytes.drop (q * blockBytes i)).take (blockBytes i))) k =
      ibufByte (holding s (bytes.drop (q * blockBytes i))) k := by
    intro k hk
    have hlt : k < 16 := hk.trans_le (blockBytes_le i)
    rw [ibufByte_holding _ _ hlt, getD_take_drop _ _ hk, ibufByte_holding_drop _ _ _ hlt]
  rw [decodedBlock_congr hi hbytes (by simp [hst.alphaEn]) (by simp [hst.s2le])] at hu
  exact ⟨u, hu, huf, htu⟩

/-- A compressed level is its blocks, then the reassembly. -/
theorem decodeLevel_compressed {wanted : Nat} {h : ImageHeader} {i : Instr} (hi : unitCommand h.tag = some i)
    (htag : h.tag ≠ .none) (level : Level) (s : State) : decodeLevel wanted h level s =
      (decodeUnits (blockUnits i level.bytes) s).map fun r =>
        ({ height := level.height, width := level.width, pixels := reassemble level.width level.height r.1 }, r.2) := by
  rw [decodeLevel, hi]
  cases htag' : h.tag with
  | none => exact absurd htag' htag
  | dx10 | other => rw [htag'] at hi; cases hi
  | dxt1 | dxt2 | dxt3 | dxt4 | dxt5 =>
    simp only
    cases decodeUnits (blockUnits i level.bytes) s <;> rfl

/-- A compressed level of the right number of bytes decodes to the reassembly of its stream. -/
theorem decodeLevel_compressed_ok {wanted : Nat} {h : ImageHeader} {i : Instr} (hi : unitCommand h.tag = some i)
    (htag : h.tag ≠ .none) {level : Level}
    (hlen : level.bytes.length = blockBytes i * levelBlocks level.height level.width) {s : State} (hf : NoFault s) :
    ∃ u, decodeLevel wanted h level s = .ok ({
        height := level.height, width := level.width, pixels := reassemble level.width level.height
          (blockStream i s level.bytes (levelBlocks level.height level.width)) }, u) ∧ NoFault u ∧ SameSettings s u := by
  obtain ⟨u, hu, huf, hsu⟩ := decodeUnits_blocks (isBlockCommand_of_unitCommand hi htag) hlen hf
  refine ⟨u, ?_, huf, hsu⟩
  rw [decodeLevel_compressed hi htag, hu]
  rfl

theorem blockStream_levelBlocks_length (i : Instr) (s : State) (bytes : List Byte) (height width : Nat) :
    (blockStream i s bytes (levelBlocks height width)).length = roundUp4 height * roundUp4 width := by
  rw [blockStream_length, roundUp4_mul_roundUp4, Nat.mul_comm]

/-- Settles O60: the closed form picks sample `e` of block `q` from the stream, which is what the command makes of that block's
bytes on any state that holds them. -/
theorem compressedLevelPixels : Obligations.CompressedLevelPixels := by
  intro wanted h level s i hi htag hf hheight hwidth hlen
  obtain ⟨t, ht, -, -⟩ := decodeLevel_compressed_ok (wanted := wanted) hi htag hlen hf
  obtain ⟨hcount, hpixel⟩ := reassemblyMatchesClosedForm level.width level.height _ hwidth hheight
    (blockStream_levelBlocks_length i s level.bytes level.height level.width)
  refine ⟨_, t, ht, rfl, rfl, hcount, fun x y hx hy u u' hbytes halpha hs2le hu => ?_⟩
  have hblock : decodedBlock i (holding s (level.bytes.drop
      ((y / 4 * (roundUp4 level.width / 4) + x / 4) * blockBytes i))) = u'.obuf := by
    rw [← decodedBlock_of_exec hu]
    refine decodedBlock_congr (isBlockCommand_of_unitCommand hi htag) (fun k hk => ?_) (by simp [halpha]) (by simp [hs2le])
    rw [ibufByte_holding_drop _ _ _ (hk.trans_le (blockBytes_le i)), Nat.mul_comm, List.getD_eq_getElem?_getD, hbytes k hk,
      Option.getD_some]
  rw [hpixel x y hx hy, pixelIndex, blockStream_getElem? i s level.bytes (pixelBlock_lt hx hy) (by omega), hblock]

/-! ### An uncompressed level (R163) -/

theorem mul_lt_of_lt_loads {count load k : Nat} (hload : 0 < load) (hk : k < (count + load - 1) / load) :
    k * load < count := by
  have hle : (k + 1) * load ≤ count + load - 1 := (Nat.le_div_iff_mul_le hload).1 hk
  rw [Nat.succ_mul] at hle
  omega

theorem le_loads_mul {count load : Nat} (hload : 0 < load) : count ≤ (count + load - 1) / load * load := by
  have hmod := Nat.mod_lt (count + load - 1) hload
  have hdiv := Nat.div_add_mod' (count + load - 1) load
  omega

/-- A pixel of a piece of the level is the level's pixel. -/
theorem heldPixel_piece {s t : State} (hst : SameSettings s t) (bytes : List Byte) (start : Nat) {n j : Nat} (hj : j < n) :
    heldPixel t ((bytes.drop (start * s.pixelBytes.toNat)).take (n * s.pixelBytes.toNat)) j =
      heldPixel s bytes (start + j) := by
  refine heldPixel_congr hst fun b hb => ?_
  have hlt : j * s.pixelBytes.toNat + b < n * s.pixelBytes.toNat := by
    have hle := Nat.mul_le_mul_right s.pixelBytes.toNat (Nat.succ_le_of_lt hj)
    rw [Nat.succ_mul] at hle
    omega
  rw [getD_take_drop _ _ hlt, Nat.add_mul, Nat.add_assoc]

/-- The pixels of a level decode one after the other, however many go into one load. -/
theorem decodeUnits_pixels (wanted : Nat) {s : State} (hf : NoFault s) (hpos : 1 ≤ s.pixelBytes.toNat)
    (hle : s.pixelBytes.toNat ≤ 4) {count : Nat} {bytes : List Byte} (hlen : bytes.length = count * s.pixelBytes.toNat) :
    ∃ u, decodeUnits (pixelUnits s.pixelBytes.toNat wanted count bytes) s =
      .ok ((List.range count).map (heldPixel s bytes), u) ∧ NoFault u ∧ SameSettings s u := by
  have hload := pixelsPerLoad_pos s.pixelBytes.toNat wanted
  have hfits := pixelsPerLoad_fits wanted (pixelBytes_le_sixteen s)
  rw [pixelUnits]
  generalize pixelsPerLoad s.pixelBytes.toNat wanted = load at hload hfits ⊢
  have hjoin := flatMap_map_range_pieces (heldPixel s bytes) load count ((count + load - 1) / load)
  rw [Nat.min_eq_right (le_loads_mul hload)] at hjoin
  rw [← hjoin]
  refine decodeUnits_map (fun k _ t htf hst => ?_) hf (.refl s)
  have hn : min load (count - k * load) ≤ load := Nat.min_le_left ..
  have hn' : min load (count - k * load) ≤ count - k * load := Nat.min_le_right ..
  generalize min load (count - k * load) = n at hn hn' ⊢
  have hpiece : ((bytes.drop (k * load * s.pixelBytes.toNat)).take (n * s.pixelBytes.toNat)).length =
      n * s.pixelBytes.toNat := by
    rw [List.length_take, List.length_drop, hlen, ← Nat.sub_mul]
    exact Nat.min_eq_left (Nat.mul_le_mul_right _ hn')
  have hsamples : (List.range n).map (heldPixel t
      ((bytes.drop (k * load * s.pixelBytes.toNat)).take (n * s.pixelBytes.toNat))) =
      (List.range n).map fun j => heldPixel s bytes (k * load + j) :=
    List.map_congr_left fun j hj => heldPixel_piece hst bytes (k * load) (List.mem_range.1 hj)
  rw [← hsamples, ← hst.pixelBytes]
  rw [← hst.pixelBytes] at hpos hle hfits hpiece
  exact unitSamples_pixels htf hpos hle hpiece ((Nat.mul_le_mul_right _ hn).trans hfits)

/-- An uncompressed level is its pixels. -/
theorem decodeLevel_uncompressed {wanted : Nat} {h : ImageHeader} (htag : h.tag = .none) (level : Level) (s : State) :
    decodeLevel wanted h level s =
      (decodeUnits (pixelUnits h.pixelBytes.toNat wanted (level.height * level.width) level.bytes) s).map fun r =>
        ({ height := level.height, width := level.width, pixels := r.1 }, r.2) := by
  rw [decodeLevel, htag]
  simp only [unitCommand]
  cases decodeUnits (pixelUnits h.pixelBytes.toNat wanted (level.height * level.width) level.bytes) s <;> rfl

/-- An uncompressed level of the right number of bytes decodes to its pixels in order. -/
theorem decodeLevel_uncompressed_ok (wanted : Nat) {h : ImageHeader} (htag : h.tag = .none) {level : Level} {s : State}
    (hf : NoFault s) (hpb : s.pixelBytes = h.pixelBytes) (hpos : 1 ≤ h.pixelBytes.toNat) (hle : h.pixelBytes.toNat ≤ 4)
    (hlen : level.bytes.length = level.height * level.width * h.pixelBytes.toNat) :
    ∃ u, decodeLevel wanted h level s = .ok ({
        height := level.height, width := level.width
        pixels := (List.range (level.height * level.width)).map (heldPixel s level.bytes) }, u) ∧
      NoFault u ∧ SameSettings s u := by
  rw [decodeLevel_uncompressed htag, ← hpb]
  rw [← hpb] at hpos hle hlen
  obtain ⟨u, hu, huf, hsu⟩ := decodeUnits_pixels wanted hf hpos hle hlen
  rw [hu]
  exact ⟨u, rfl, huf, hsu⟩

/-- Settles O59: each load gives the pixels of its bytes, and the loads joined are the pixels of the level in order. -/
theorem uncompressedLevelPixels : Obligations.UncompressedLevelPixels := by
  intro wanted h level s htag hf hconf hpos hle _ _ hlen
  obtain ⟨hpb, hr, hg, hb, ha, -⟩ := hconf
  obtain ⟨u, hu, -, -⟩ := decodeLevel_uncompressed_ok wanted htag hf hpb hpos hle hlen
  refine ⟨_, u, hu, rfl, rfl, by simp, fun j hj => ⟨heldWord s level.bytes j, ?_, ?_⟩⟩
  · rw [heldWord_toNat (hpb ▸ hle), hpb]
  · rw [List.getElem?_map, List.getElem?_range hj, Option.map_some, heldPixel, pixelSample, hr, hg, hb, ha]

end Sys2Proof.Machine
end

section
/-! PROOFS. The obligations on the whole decode (46_downstream_contract.md R161 to R167, 60_exceptions.md R182, R193): the
configuration, when a level decodes and when it fails, and the levels one after the other. -/

namespace Sys2Proof.Machine

/-! ### The configuration (R163, R168, R169) -/

/-- The word of `cfg` holds the two fields of `CTRL` and asks for no reset. -/
theorem cfgWord_fields (pixelBytes : BitVec 3) (alphaEn : Bool) :
    let v : Word := BitVec.ofNat 32 (pixelBytes.toNat * 16 + alphaEn.toNat)
    ctrlSrst v = false ∧ ctrlAlphaEn v = alphaEn ∧ ctrlPixelBytes v = pixelBytes := by
  revert pixelBytes alphaEn
  decide

/-- The configuration is performed whatever the latch holds, and leaves the latch alone (20_memory.md R55). -/
theorem perform_configureImage (pixelBytes : BitVec 3) (alphaEn : Bool) (r g b a : Word) (s : State) :
    ∃ t, perform (configureImage pixelBytes alphaEn r g b a) s = .ok t ∧ Configured pixelBytes r g b a alphaEn t ∧
      t.fault = s.fault := by
  obtain ⟨hsrst, halpha, hbytes⟩ := cfgWord_fields pixelBytes alphaEn
  have hctrl (u : State) : performAction (cfg pixelBytes alphaEn) u =
      .next (answered .done { u with alphaEn := alphaEn, pixelBytes := pixelBytes }) := by
    rw [cfg, performAction_wr (r := .ctrl) rfl, writeCtrl_store hsrst, halpha, hbytes]
  have hperform := (perform_cons_of_next (performAction_wr (r := .maskR) (v := r) (s := s) rfl) _).trans <|
    (perform_cons_of_next (performAction_wr (r := .maskG) (v := g) rfl) _).trans <|
    (perform_cons_of_next (performAction_wr (r := .maskB) (v := b) rfl) _).trans <|
    (perform_cons_of_next (performAction_wr (r := .maskA) (v := a) rfl) _).trans <| perform_cons_of_next (hctrl _) []
  exact ⟨_, hperform, ⟨rfl, rfl, rfl, rfl, rfl, rfl⟩, rfl⟩

/-! ### One level -/

/-- What the host has to have set up for a level to decode: for uncompressed pixels a byte count `PIX` supports. -/
def PixelsSupported (h : ImageHeader) (s : State) : Prop :=
  h.tag = .none → s.pixelBytes = h.pixelBytes ∧ 1 ≤ h.pixelBytes.toNat ∧ h.pixelBytes.toNat ≤ 4

theorem exists_decodeLevel_ok (wanted : Nat) {h : ImageHeader} (htag : unitCommand h.tag ≠ none) {level : Level}
    (hlevel : level.Sized h.tag h.pixelBytes.toNat) {s : State} (hf : NoFault s) (hpb : PixelsSupported h s) :
    ∃ m u, decodeLevel wanted h level s = .ok (m, u) ∧ m.height = level.height ∧ m.width = level.width ∧
      m.pixels.length = level.width * level.height ∧ NoFault u ∧ SameSettings s u := by
  obtain ⟨hheight, hwidth, hspan⟩ := hlevel
  by_cases hnone : h.tag = .none
  · obtain ⟨hset, hpos, hle⟩ := hpb hnone
    have hlen : level.bytes.length = level.height * level.width * h.pixelBytes.toNat := by
      rw [hnone] at hspan
      exact (Option.some.inj hspan).symm
    obtain ⟨u, hu, huf, hsu⟩ := decodeLevel_uncompressed_ok wanted hnone hf hset hpos hle hlen
    exact ⟨_, u, hu, rfl, rfl, by simp [Nat.mul_comm], huf, hsu⟩
  · obtain ⟨i, hi⟩ := Option.ne_none_iff_exists'.1 htag
    rw [levelSpan_compressed hi hnone] at hspan
    obtain ⟨u, hu, huf, hsu⟩ := decodeLevel_compressed_ok (wanted := wanted) hi hnone (Option.some.inj hspan).symm hf
    exact ⟨_, u, hu, rfl, rfl, reassemble_length hwidth (blockStream_levelBlocks_length ..), huf, hsu⟩

/-! ### A level that fails (R167, R182) -/

/-- A unit on a latched block reads the latched fault. -/
theorem unitSamples_latched {as : List HostAction} (hwrites : ∀ a ∈ as, UnitWrite a) (n : Nat) {s : State}
    (hf : s.fault = true) : ∃ e, unitSamples (as ++ readBack n) s = .error e := by
  obtain ⟨t, ht, hst⟩ := exists_perform_unitWrites hwrites s
  exact ⟨_, unitSamples_of_fault hwrites n ht (hst.fault hf)⟩

/-- The byte counts `PIX` faults on (60_exceptions.md R182). -/
def BadByteCount (pixelBytes : BitVec 3) : Prop := pixelBytes.toNat = 0 ∨ 4 < pixelBytes.toNat

theorem BadByteCount.pixelBytesOk_eq_false {s : State} (h : BadByteCount s.pixelBytes) : pixelBytesOk s = false := by
  obtain hzero | hlarge := h
  · simp [pixelBytesOk, hzero]
  · simp [pixelBytesOk, hlarge]

/-- A `pix` line with such a count leaves a fault: its own, or the one already latched. -/
theorem performAction_pixLine_fault {src dst : BitVec 4} {s t : State} (hbad : BadByteCount s.pixelBytes)
    (h : performAction (cmdLine (.pix src dst)) s = .next t) : t.fault = true := by
  cases hf : s.fault with
  | true =>
    obtain ⟨u, hu, hsu⟩ := (UnitWrite.command (.pix src dst)).exists_next s
    obtain rfl : u = t := Host.Outcome.next.inj (hu.symm.trans h)
    exact hsu.fault hf
  | false =>
    have hcount : pixelBytesOk (answered .done s) = false := hbad.pixelBytesOk_eq_false
    rw [performAction_cmdLine rfl hf, exec, execPix, hcount] at h
    cases h
    rfl

theorem perform_pixLines_fault (pixelBytes : Nat) {n : Nat} (hn : 0 < n) {s : State} (hbad : BadByteCount s.pixelBytes) :
    ∃ t, perform (pixLines pixelBytes n) s = .ok t ∧ t.fault = true := by
  obtain ⟨m, rfl⟩ := Nat.exists_eq_succ_of_ne_zero hn.ne'
  obtain ⟨t, ht, hst⟩ := exists_perform_unitWrites (fun _ => unitWrite_of_mem_pixLines) s
  obtain ⟨u, hu, -⟩ := (UnitWrite.command (.pix (BitVec.ofNat 4 (m * pixelBytes)) (BitVec.ofNat 4 m))).exists_next t
  refine ⟨u, ?_, performAction_pixLine_fault (hst.settings.pixelBytes ▸ hbad) hu⟩
  rw [pixLines_succ, perform_append_of_ok ht]
  exact perform_cons_of_next hu []

theorem unitSamples_pixels_error (pixelBytes : Nat) {n : Nat} (hn : 0 < n) (bytes : List Byte) {s : State}
    (hbad : BadByteCount s.pixelBytes) : ∃ e, unitSamples (pixelSequence pixelBytes n bytes) s = .error e := by
  obtain ⟨t, ht, hst⟩ := exists_perform_unitWrites (fun _ => unitWrite_of_mem_loadIbuf (bytes := bytes)) s
  obtain ⟨u, hu, huf⟩ := perform_pixLines_fault pixelBytes hn (hst.settings.pixelBytes ▸ hbad)
  exact ⟨_, unitSamples_of_fault unitWrite_of_mem_pixelWrites n ((perform_append_of_ok ht _).trans hu) huf⟩

/-- What makes every level fail: a fault already latched, or pixels of a byte count `PIX` faults on. -/
def LevelsFail (h : ImageHeader) (s : State) : Prop :=
  s.fault = true ∨ (h.tag = .none ∧ s.pixelBytes = h.pixelBytes ∧ BadByteCount h.pixelBytes)

theorem pixelUnits_ne_nil (pixelBytes wanted : Nat) {count : Nat} (hcount : 0 < count) (bytes : List Byte) :
    pixelUnits pixelBytes wanted count bytes ≠ [] := by
  have hload := pixelsPerLoad_pos pixelBytes wanted
  have hunits : 0 < (count + pixelsPerLoad pixelBytes wanted - 1) / pixelsPerLoad pixelBytes wanted :=
    Nat.div_pos (by omega) hload
  rw [pixelUnits, Ne, List.map_eq_nil_iff, List.range_eq_nil]
  exact hunits.ne'

theorem pixelUnits_error {h : ImageHeader} {s : State} (hfail : LevelsFail h s)
    (wanted count : Nat) (bytes : List Byte) :
    ∀ unit ∈ pixelUnits h.pixelBytes.toNat wanted count bytes, ∃ e, unitSamples unit s = .error e := by
  intro unit hunit
  obtain ⟨k, hk, rfl⟩ := List.mem_map.1 hunit
  obtain hlatched | ⟨-, hset, hbad⟩ := hfail
  · exact unitSamples_latched unitWrite_of_mem_pixelWrites _ hlatched
  · have hload := pixelsPerLoad_pos h.pixelBytes.toNat wanted
    have hlt := mul_lt_of_lt_loads hload (List.mem_range.1 hk)
    exact unitSamples_pixels_error _ (Nat.lt_min.2 ⟨hload, Nat.sub_pos_of_lt hlt⟩) _ (hset ▸ hbad)

theorem blockUnits_error {i : Instr} {bytes : List Byte} {count : Nat} (hlen : bytes.length = blockBytes i * count)
    {s : State} (hf : s.fault = true) : ∀ unit ∈ blockUnits i bytes, ∃ e, unitSamples unit s = .error e := by
  intro unit hunit
  rw [blockUnits_eq_map hlen] at hunit
  obtain ⟨q, hq, rfl⟩ := List.mem_map.1 hunit
  rw [blockSequence_eq (block_length hlen (List.mem_range.1 hq))]
  exact unitSamples_latched unitWrite_of_mem_blockWrites 16 hf

/-- A level of positive size has a unit, and its first unit fails. -/
theorem decodeLevel_error (wanted : Nat) {h : ImageHeader} {level : Level} (hlevel : level.Sized h.tag h.pixelBytes.toNat)
    {s : State} (hfail : LevelsFail h s) : ∃ e, decodeLevel wanted h level s = .error e := by
  obtain ⟨hheight, hwidth, hspan⟩ := hlevel
  by_cases hnone : h.tag = .none
  · have hne := pixelUnits_ne_nil h.pixelBytes.toNat wanted (Nat.mul_pos hheight hwidth) level.bytes
    obtain ⟨e, he⟩ := decodeUnits_error hne (pixelUnits_error hfail wanted _ level.bytes)
    exact ⟨e, by rw [decodeLevel_uncompressed hnone, he]; rfl⟩
  · have hf : s.fault = true := hfail.resolve_right fun hpix => hnone hpix.1
    cases hi : unitCommand h.tag with
    | none => rw [levelSpan_of_unsupported hi] at hspan; cases hspan
    | some i =>
      rw [levelSpan_compressed hi hnone] at hspan
      have hlen := (Option.some.inj hspan).symm
      have hne : blockUnits i level.bytes ≠ [] := by
        rw [blockUnits_eq_map hlen]
        simpa using (levelBlocks_pos level.height level.width).ne'
      obtain ⟨e, he⟩ := decodeUnits_error hne (blockUnits_error hlen hf)
      exact ⟨e, by rw [decodeLevel_compressed hi hnone, he]; rfl⟩

/-! ### The levels one after the other (R165, R167) -/

theorem decodeLevels_cons_of_ok {wanted : Nat} {h : ImageHeader} {level : Level} {s t : State} {m : Image}
    (hlevel : decodeLevel wanted h level s = .ok (m, t)) {rest : List Level} {u : State} {images : List Image}
    (hrest : decodeLevels wanted h rest t = .ok (images, u)) :
    decodeLevels wanted h (level :: rest) s = .ok (m :: images, u) := by
  simp only [decodeLevels, hlevel, hrest]

/-- An image has its dimensions' number of pixels. -/
def Image.Whole (m : Image) : Prop := m.pixels.length = m.width * m.height

theorem exists_decodeLevels_ok (wanted : Nat) {h : ImageHeader} (htag : unitCommand h.tag ≠ none) {levels : List Level}
    (hlevels : ∀ level ∈ levels, level.Sized h.tag h.pixelBytes.toNat) {s : State} (hf : NoFault s)
    (hpb : PixelsSupported h s) : ∃ images u, decodeLevels wanted h levels s = .ok (images, u) ∧
      images.map (fun m => (m.height, m.width)) = levels.map (fun l => (l.height, l.width)) ∧
      (∀ m ∈ images, m.Whole) ∧ NoFault u := by
  induction levels generalizing s with
  | nil => exact ⟨[], s, rfl, rfl, by simp, hf⟩
  | cons level rest ih =>
    obtain ⟨hlevel, hrest⟩ := List.forall_mem_cons.1 hlevels
    obtain ⟨m, t, ht, hheight, hwidth, hpixels, htf, hst⟩ := exists_decodeLevel_ok wanted htag hlevel hf hpb
    obtain ⟨images, u, hu, hdims, hwhole, huf⟩ := ih hrest htf (by rwa [PixelsSupported, hst.pixelBytes])
    have hm : m.Whole := by rw [Image.Whole, hpixels, hheight, hwidth]
    refine ⟨m :: images, u, decodeLevels_cons_of_ok ht hu, ?_, List.forall_mem_cons.2 ⟨hm, hwhole⟩, huf⟩
    rw [List.map_cons, List.map_cons, hdims, hheight, hwidth]

theorem decodeLevels_error (wanted : Nat) {h : ImageHeader} {levels : List Level} (hne : levels ≠ [])
    (hlevels : ∀ level ∈ levels, level.Sized h.tag h.pixelBytes.toNat) {s : State} (hfail : LevelsFail h s) :
    ∃ e, decodeLevels wanted h levels s = .error e := by
  cases levels with
  | nil => exact absurd rfl hne
  | cons level rest =>
    obtain ⟨e, he⟩ := decodeLevel_error wanted (hlevels level List.mem_cons_self) hfail
    exact ⟨e, by rw [decodeLevels, he]⟩

/-! ### The whole decode (R165, R167) -/

/-- The levels of `input` as the header has them. -/
def imageLevels (h : ImageHeader) (input : List Byte) : Except HostError (List Level) :=
  takeLevels h.tag h.pixelBytes.toNat (levelDims h.height h.width h.mips) input

theorem decodeImages_of_levels_error {h : ImageHeader} {input : List Byte} {e : HostError} (he : imageLevels h input = .error e)
    (wanted : Nat) (s : State) : decodeImages wanted h input s = .error e := by
  rw [decodeImages]
  rw [imageLevels] at he
  rw [he]

/-- Once the levels are taken the decode is theirs, on the block the header configures. -/
theorem decodeImages_of_levels_ok {h : ImageHeader} {input : List Byte} {levels : List Level}
    (hlevels : imageLevels h input = .ok levels) (wanted : Nat) (s : State) :
    ∃ t, decodeImages wanted h input s = decodeLevels wanted h levels t ∧ t.pixelBytes = h.pixelBytes ∧
      t.fault = s.fault := by
  obtain ⟨t, ht, ⟨hset, -⟩, hfault⟩ :=
    perform_configureImage h.pixelBytes h.alphaEn h.maskR h.maskG h.maskB h.maskA s
  refine ⟨t, ?_, hset, hfault⟩
  rw [imageLevels] at hlevels
  rw [decodeImages, hlevels, ht]

theorem levels_ne_nil {h : ImageHeader} {input : List Byte} {levels : List Level}
    (hlevels : imageLevels h input = .ok levels) : levels ≠ [] := by
  rintro rfl
  exact levelDims_ne_nil _ _ _ (takeLevels_ok hlevels).1.symm

theorem imageLevels_supported {h : ImageHeader} {input : List Byte} {levels : List Level}
    (hlevels : imageLevels h input = .ok levels) : unitCommand h.tag ≠ none := by
  intro htag
  rw [imageLevels, takeLevels_unsupported htag _ (levelDims_ne_nil _ _ _)] at hlevels
  cases hlevels

/-- A latched fault, or pixels of a byte count `PIX` faults on, fail the whole decode. -/
theorem decodeImages_error (wanted : Nat) {h : ImageHeader} (input : List Byte) {s : State}
    (hfail : s.fault = true ∨ (h.tag = .none ∧ BadByteCount h.pixelBytes)) :
    ∃ e, decodeImages wanted h input s = .error e := by
  cases hlevels : imageLevels h input with
  | error e => exact ⟨e, decodeImages_of_levels_error hlevels wanted s⟩
  | ok levels =>
    obtain ⟨t, ht, hset, hfault⟩ := decodeImages_of_levels_ok hlevels wanted s
    obtain ⟨-, -, hsized⟩ := takeLevels_ok hlevels
    rw [ht]
    refine decodeLevels_error wanted (levels_ne_nil hlevels) hsized ?_
    exact hfail.imp hfault.trans fun ⟨htag, hbad⟩ => ⟨htag, hset, hbad⟩

/-- Levels taken, no fault latched and a supported byte count are enough, and fix what is returned. -/
theorem exists_decodeImages_ok (wanted : Nat) {h : ImageHeader} {input : List Byte} {levels : List Level}
    (hlevels : imageLevels h input = .ok levels) {s : State} (hf : NoFault s)
    (hpb : h.tag = .none → ¬ BadByteCount h.pixelBytes) :
    ∃ images t, decodeImages wanted h input s = .ok (images, t) ∧
      images.map (fun m => (m.height, m.width)) = levelDims h.height h.width h.mips ∧
      (∀ m ∈ images, m.Whole) ∧ NoFault t := by
  obtain ⟨t, ht, hset, hfault⟩ := decodeImages_of_levels_ok hlevels wanted s
  obtain ⟨hdims, -, hsized⟩ := takeLevels_ok hlevels
  have hsupported : PixelsSupported h t := by
    intro htag
    have hcount := hpb htag
    unfold BadByteCount at hcount
    exact ⟨hset, by omega, by omega⟩
  rw [ht, ← hdims]
  exact exists_decodeLevels_ok wanted (imageLevels_supported hlevels) hsized (hfault.trans hf) hsupported

theorem imageBytes_length (pixels : List Word) : (imageBytes pixels).length = pixels.length * 4 := by
  simp [imageBytes, List.length_flatMap]

/-- Settles O57: a decode that returns images had its levels taken, started without a fault and had a byte count `PIX` supports,
so it returns what `exists_decodeImages_ok` says. -/
theorem decodeReturnsWholeSequence : Obligations.DecodeReturnsWholeSequence := by
  intro wanted h input s t images hok
  have hnot : ¬ (s.fault = true ∨ (h.tag = .none ∧ BadByteCount h.pixelBytes)) := by
    intro hfail
    obtain ⟨e, he⟩ := decodeImages_error wanted input hfail
    cases he.symm.trans hok
  obtain ⟨hf, hpb⟩ := not_or.1 hnot
  cases hlevels : imageLevels h input with
  | error e => cases (decodeImages_of_levels_error hlevels wanted s).symm.trans hok
  | ok levels =>
    obtain ⟨images', t', hok', hdims, hwhole, htf⟩ :=
      exists_decodeImages_ok wanted hlevels (Bool.eq_false_iff.2 hf) fun htag hbad => hpb ⟨htag, hbad⟩
    obtain ⟨rfl, rfl⟩ := Prod.mk.inj (Except.ok.inj (hok'.symm.trans hok))
    rw [levelDims_eq] at hdims
    refine ⟨?_, hdims, fun m hm => ⟨hwhole m hm, ?_⟩, htf⟩
    · simpa using congrArg List.length hdims
    · rw [imageBytes_length, hwhole m hm]

/-- Settles O58: enough bytes for the spans let the walk over the levels succeed, and an unsupported tag fails it; a fault or a
byte count `PIX` faults on fails the first unit of the first level. -/
theorem decodeSucceedsOrFailsWhole : Obligations.DecodeSucceedsOrFailsWhole := by
  intro wanted h input s
  refine ⟨fun hf htag hpos henough hpb => ?_, fun htag => ?_, fun _ => decodeImages_error wanted input⟩
  · obtain ⟨levels, hlevels⟩ := exists_takeLevels_ok htag hpos henough
    obtain ⟨images, t, hok, -⟩ := exists_decodeImages_ok wanted hlevels hf fun hnone hbad => by
      obtain ⟨hlow, hhigh⟩ := hpb hnone
      unfold BadByteCount at hbad
      omega
    exact ⟨images, t, hok⟩
  · exact decodeImages_of_levels_error (takeLevels_unsupported htag _ (levelDims_ne_nil _ _ _) input) wanted s

end Sys2Proof.Machine
end

section
/-! PROOFS. The obligations on the fault model (60_exceptions.md): every step has a successor, which word leaves which fault
code, what ends a fault, and how a run goes wrong. -/

namespace Sys2Proof.Machine

/-! ### No step stops (R180, R184, R186, 20_memory.md R53) -/

/-- Every host action has a next state: reads and resets answer at once, and a write is performed, refused or a command. -/
theorem exists_performAction_next (a : HostAction) (s : State) : ∃ t, performAction a s = .next t := by
  cases a with
  | read | hardReset => exact ⟨_, rfl⟩
  | write off width v =>
    by_cases h : width = 32 ∧ ∃ r : Reg, r.writable = true ∧ off = regOffset r
    · obtain ⟨rfl, r, hr, rfl⟩ := h
      obtain ⟨t, ht, -⟩ := writeAccess_of_writable hr v s
      exact ⟨t, ht⟩
    · exact ⟨_, writeAccess_of_not_writable h v s⟩

/-- Settles O9: an idle step stays, and any other performs one host action. -/
theorem everyStepAnswersNext : Obligations.EveryStepAnswersNext := by
  intro s
  cases hp : s.program with
  | nil => exact ⟨s, step_idle hp⟩
  | cons a rest =>
    rw [step_action hp]
    exact exists_performAction_next a _

/-! ### What a faulting command writes (R184) -/

/-- Settles O14: `runCommand_latch` with no fault latched before. -/
theorem faultingCommandWritesOnlyTheLatch : Obligations.FaultingCommandWritesOnlyTheLatch := by
  intro s t w hf h
  obtain ⟨hfault, hcode, hcmd⟩ | ⟨-, c, hc, rfl⟩ := runCommand_latch h
  · exact ⟨fun ht => by simp [hfault, hf] at ht, fun _ => ⟨hcode, hcmd⟩⟩
  · exact ⟨fun _ => ⟨c, hc, rfl⟩, nofun⟩

/-! ### Where `PIX` faults (R182, R183, R185) -/

/-- An unsupported byte count faults whatever the range is. -/
theorem exec_pix_of_badByteCount {s : State} (h : BadByteCount s.pixelBytes) (src dst : BitVec 4) :
    exec (.pix src dst) s = .next (raiseFault .unsupportedPixelBytes (encode (.pix src dst)) s) :=
  if_pos (by rw [h.pixelBytesOk_eq_false]; rfl)

/-- A supported byte count whose bytes pass `IBUF[15]` faults. -/
theorem exec_pix_of_past {src : BitVec 4} {s : State} (hpos : 1 ≤ s.pixelBytes.toNat) (hle : s.pixelBytes.toNat ≤ 4)
    (hpast : 16 < src.toNat + s.pixelBytes.toNat) (dst : BitVec 4) :
    exec (.pix src dst) s = .next (raiseFault .ibufRange (encode (.pix src dst)) s) := by
  have hok : pixelBytesOk s = true := by simp [pixelBytesOk, hpos, hle]
  simp [exec, execPix, hok, (pastIbuf_eq_true_iff ..).2 hpast]

theorem encode_pix (src dst : BitVec 4) :
    encode (.pix src dst) = BitVec.ofNat 32 (0x01 + src.toNat * 0x100 + dst.toNat * 0x1000) := by
  rw [← encode_pix_toNat, BitVec.ofNat_toNat, BitVec.setWidth_eq]

/-- Settles O39: the two fault entries of `PIX`, with its word written out. -/
theorem pixFaults : Obligations.PixFaults := by
  intro src dst s
  rw [← encode_pix]
  exact ⟨fun hbad => exec_pix_of_badByteCount hbad src dst, fun hpos hle hpast => exec_pix_of_past hpos hle hpast dst⟩

/-! ### One cause for each faulting word (R182, R183, R185) -/

/-- When a word handed to a block with no fault latched faults with a code, in the words of R182, R183 and R185. -/
def FaultCondition (s : State) (w : Word) : FaultCode → Prop
  | .illegalCommand => ∃ why, decode w = .illegal why
  | .unsupportedCompression => ∃ i, decode w = .command i ∧
      (i = .dx10 ∨ i = .reservedTag0 ∨ i = .reservedTag7 ∨ ∃ tag, i = .reservedTag8To15 tag)
  | .unsupportedPixelBytes => ∃ src dst, decode w = .command (.pix src dst) ∧ BadByteCount s.pixelBytes
  | .ibufRange =>
      (∃ src dst, decode w = .command (.pix src dst) ∧ 1 ≤ s.pixelBytes.toNat ∧ s.pixelBytes.toNat ≤ 4 ∧
        16 < src.toNat + s.pixelBytes.toNat) ∨
      (∃ src pol, decode w = .command (.lutc src pol) ∧ 16 < src.toNat + 4) ∨
      (∃ src, decode w = .command (.luta src) ∧ 16 < src.toNat + 2)

/-- A word that meets the condition of a code raises it. -/
theorem FaultCondition.runCommand_eq {s : State} {w : Word} {c : FaultCode} (h : FaultCondition s w c)
    (hf : s.fault = false) : runCommand w s = .next (raiseFault c w s) := by
  have raise_of_exec {i : Instr} (hd : decode w = .command i) (hx : exec i s = .next (raiseFault c (encode i) s)) :
      runCommand w s = .next (raiseFault c w s) := by
    rw [runCommand_decoded hf hd, hx, encode_of_decode hd]
  cases c with
  | illegalCommand =>
    obtain ⟨why, hd⟩ := h
    exact runCommand_illegal hf hd
  | unsupportedCompression =>
    obtain ⟨i, hd, hi⟩ := h
    exact raise_of_exec hd (exec_of_unsupported (unsupportedCompression_mem_commandFaults hi) s)
  | unsupportedPixelBytes =>
    obtain ⟨src, dst, hd, hbad⟩ := h
    exact raise_of_exec hd (exec_pix_of_badByteCount hbad src dst)
  | ibufRange =>
    obtain ⟨src, dst, hd, hpos, hle, hpast⟩ | ⟨src, pol, hd, hpast⟩ | ⟨src, hd, hpast⟩ := h
    · exact raise_of_exec hd (exec_pix_of_past hpos hle hpast dst)
    · exact raise_of_exec hd (exec_lutc_of_past (by omega) pol s)
    · exact raise_of_exec hd (exec_luta_of_past (by omega) s)

/-- A word that faults meets the condition of some code: its possible causes, where `PIX` alone depends on the state. -/
theorem exists_faultCondition {s t : State} {w : Word} (hf : s.fault = false) (h : runCommand w s = .next t)
    (ht : t.fault = true) : ∃ c, FaultCondition s w c := by
  obtain ⟨hfault, -⟩ | ⟨-, c, hc, -⟩ := runCommand_latch h
  · simp [hfault, hf] at ht
  cases hd : decode w with
  | illegal why => exact ⟨.illegalCommand, why, hd⟩
  | command i =>
    rw [possibleFaults_command hd] at hc
    cases i with
    | pix src dst =>
      by_cases hbad : BadByteCount s.pixelBytes
      · exact ⟨.unsupportedPixelBytes, src, dst, hd, hbad⟩
      obtain ⟨hpos, hle⟩ : 1 ≤ s.pixelBytes.toNat ∧ s.pixelBytes.toNat ≤ 4 := by unfold BadByteCount at hbad; omega
      by_cases hpast : 16 < src.toNat + s.pixelBytes.toNat
      · exact ⟨.ibufRange, .inl ⟨src, dst, hd, hpos, hle, hpast⟩⟩
      · rw [runCommand_decoded hf hd, exec_pix_of_fits hpos hle (Nat.not_lt.1 hpast)] at h
        cases h
        simp [hf] at ht
    | lutc src pol =>
      have hpast : pastIbuf src 4 = true := by
        by_contra hfits
        simp [commandFaults, hfits] at hc
      exact ⟨.ibufRange, .inr (.inl ⟨src, pol, hd, (pastIbuf_eq_true_iff ..).1 hpast⟩)⟩
    | luta src =>
      have hpast : pastIbuf src 2 = true := by
        by_contra hfits
        simp [commandFaults, hfits] at hc
      exact ⟨.ibufRange, .inr (.inr ⟨src, hd, (pastIbuf_eq_true_iff ..).1 hpast⟩)⟩
    | dx10 | reservedTag0 | reservedTag7 | reservedTag8To15 => exact ⟨.unsupportedCompression, _, hd, by simp⟩
    | nop | dxt1 | dxt2 | dxt3 | dxt4 | dxt5 => simp [commandFaults] at hc

/-- A word faults with a code exactly where it meets the code's condition. -/
theorem faults_with_iff {s t : State} {w : Word} (hf : s.fault = false) (h : runCommand w s = .next t) (c : FaultCode) :
    (t.fault = true ∧ t.fcode = faultBits c) ↔ FaultCondition s w c := by
  constructor
  · rintro ⟨ht, hcode⟩
    obtain ⟨c', hc'⟩ := exists_faultCondition hf h ht
    obtain rfl : t = raiseFault c' w s := Host.Outcome.next.inj (h.symm.trans (hc'.runCommand_eq hf))
    rwa [← faultBits_injective hcode]
  · intro hc
    obtain rfl : t = raiseFault c w s := Host.Outcome.next.inj (h.symm.trans (hc.runCommand_eq hf))
    exact ⟨rfl, rfl⟩

/-- Settles O15: a fault writes the latch only, and `faults_with_iff` at each of the four codes. -/
theorem faultCauseAndPriority : Obligations.FaultCauseAndPriority := by
  intro s t w hf h
  have hiff := faults_with_iff hf h
  obtain ⟨hraised, -⟩ := faultingCommandWritesOnlyTheLatch s t w hf h
  refine ⟨fun ht => ?_, fun ht => ?_, hiff .illegalCommand, hiff .unsupportedCompression, hiff .unsupportedPixelBytes,
    hiff .ibufRange⟩
  · obtain ⟨c, -, rfl⟩ := hraised ht
    rfl
  · obtain ⟨c, -, rfl⟩ := hraised ht
    cases c <;> simp [faultBits]

/-! ### What ends a fault (R187, R188, 10_state.md R36) -/

/-- `clrf`, `srst` and the hard reset: a write to `STATUS` with bit 0 set, one to `CTRL` with bit 31 set (R188, R200). -/
def EndsFault (a : HostAction) : Prop :=
  (∃ v : Word, a = .write 0x08 32 v ∧ statusClears v = true) ∨
    (∃ v : Word, a = .write 0x04 32 v ∧ ctrlSrst v = true) ∨ a = .hardReset

theorem step_clearFault {s : State} {v : Word} {rest : List HostAction} (hp : s.program = .write 0x08 32 v :: rest)
    (hv : statusClears v = true) : step s = .next (answered .done (clearFault { s with program := rest })) :=
  step_writeReg .status hp (congrArg some (writeStatus_clear hv _))

theorem step_softReset {s : State} {v : Word} {rest : List HostAction} (hp : s.program = .write 0x04 32 v :: rest)
    (hv : ctrlSrst v = true) : step s = .next (answered .done (resetBlock { s with program := rest })) :=
  step_writeReg .ctrl hp (congrArg some (writeCtrl_reset hv _))

theorem step_hardReset {s : State} {rest : List HostAction} (hp : s.program = .hardReset :: rest) :
    step s = .next (resetBlock { s with program := rest }) :=
  step_action hp

theorem EndsFault.step_fault {a : HostAction} (ha : EndsFault a) {s t : State} {rest : List HostAction}
    (hp : s.program = a :: rest) (h : step s = .next t) : t.fault = false := by
  obtain ⟨v, rfl, hv⟩ | ⟨v, rfl, hv⟩ | rfl := ha
  · cases (step_clearFault hp hv).symm.trans h
    rfl
  · cases (step_softReset hp hv).symm.trans h
    rw [answered_fault, resetBlock_fault]
  · cases (step_hardReset hp).symm.trans h
    exact resetBlock_fault _

/-- The latch and the outputs of `t` hold what those of `s` hold. -/
def SameLatchAndOutputs (s t : State) : Prop := SameLatch s t ∧ t.obuf = s.obuf ∧ t.clut = s.clut ∧ t.alut = s.alut

/-- A register write other than `clrf` and `srst` leaves the latch and the outputs alone. -/
theorem writeReg_sameLatchAndOutputs {r : Reg} {v : Word} {s u : State} (h : writeReg r v s = some u)
    (hstatus : r = .status → statusClears v = false) (hctrl : r = .ctrl → ctrlSrst v = false) :
    SameLatchAndOutputs s u := by
  obtain ⟨-, houtputs⟩ := writeReg_buffers h hctrl
  refine ⟨?_, houtputs⟩
  obtain ⟨hr, rfl⟩ | ⟨hr, rfl⟩ | ⟨_, _, _, _, rfl⟩ | ⟨j, -, rfl⟩ := writeReg_cases h
  · rw [writeCtrl_store (hctrl hr)]; exact ⟨rfl, rfl, rfl⟩
  · rw [writeStatus_keep (hstatus hr)]; exact ⟨rfl, rfl, rfl⟩
  · exact ⟨rfl, rfl, rfl⟩
  · simp [SameLatch]

/-- While a fault is latched every other action leaves the latch and the outputs alone: the gate drops commands (R71). -/
theorem step_sameLatchAndOutputs {s t : State} {a : HostAction} {rest : List HostAction} (hp : s.program = a :: rest)
    (hf : s.fault = true) (ha : ¬ EndsFault a) (h : step s = .next t) : SameLatchAndOutputs s t := by
  cases step_effect hp h with
  | read | refused => exact ⟨⟨rfl, rfl, rfl⟩, rfl, rfl, rfl⟩
  | hardReset => exact absurd (.inr (.inr rfl)) ha
  | command hx =>
    rw [runCommand_faulted (s := answered .done { s with program := rest }) _ hf] at hx
    cases hx
    exact ⟨⟨rfl, rfl, rfl⟩, rfl, rfl, rfl⟩
  | @register r v u hw =>
    have hstatus : r = .status → statusClears v = false := by
      rintro rfl
      exact Bool.eq_false_iff.2 fun hv => ha (.inl ⟨v, rfl, hv⟩)
    have hctrl : r = .ctrl → ctrlSrst v = false := by
      rintro rfl
      exact Bool.eq_false_iff.2 fun hv => ha (.inr (.inl ⟨v, rfl, hv⟩))
    exact (writeReg_sameLatchAndOutputs hw hstatus hctrl :)

/-- Settles O16: the three actions clear the latch, and every other action keeps it and the outputs. -/
theorem onlyClearingActionsEndAFault : Obligations.OnlyClearingActionsEndAFault := by
  intro s t a rest hp hf h
  show (t.fault = false ↔ EndsFault a) ∧ _
  by_cases ha : EndsFault a
  · have ht := ha.step_fault hp h
    simp [ha, ht]
  · obtain ⟨⟨hfault, hcode, hcmd⟩, houtputs⟩ := step_sameLatchAndOutputs hp hf ha h
    simp [ha, hfault, hf, hcode, hcmd, houtputs]

/-! ### How a run goes wrong (R180, 70_reset_and_hazards.md R208) -/

/-- A step that adds `HostAccessError` to the answers changes nothing else: a refused read or a refused write. -/
theorem step_adds_accessError {s t : State} {a : HostAction} {rest : List HostAction} (hp : s.program = a :: rest)
    (h : step s = .next t) (hs : .accessError ∉ s.answers) (ht : .accessError ∈ t.answers) :
    t = answered .accessError { s with program := rest } := by
  have not_mem_done {u : State} (hu : u.answers = .done :: s.answers) : .accessError ∉ u.answers := by simp [hu, hs]
  cases step_effect hp h with
  | read off width =>
    have hrefused : readAnswer off width { s with program := rest } = .accessError := by
      simpa [hs, eq_comm] using ht
    rw [hrefused]
  | refused => rfl
  | register hw =>
    obtain ⟨-, -, hanswers⟩ := writeReg_sameRun hw
    exact absurd ht (not_mem_done (congrArg (List.cons Answer.done) hanswers))
  | command hx =>
    obtain ⟨-, -, hanswers⟩ := runCommand_sameRun hx
    exact absurd ht (not_mem_done hanswers)
  | hardReset => exact absurd (by simpa using ht) hs

/-- Settles O17: a newly latched fault comes from a write to `CMD`, a newly given `HostAccessError` from a refused access. -/
theorem runsGoWrongInTwoWays : Obligations.RunsGoWrongInTwoWays := by
  intro s t hs h hwrong
  obtain ⟨hfault, hanswers⟩ := not_or.1 hs
  cases hp : s.program with
  | nil =>
    cases (step_idle hp).symm.trans h
    exact absurd hwrong hs
  | cons a rest =>
    refine ⟨a, rest, rfl, hwrong.imp (fun ht => ?_) fun ht => ?_⟩
    · obtain ⟨w, ha, hcmd⟩ := step_sets_fault hp (Bool.eq_false_iff.2 hfault) h ht
      exact ⟨w, ha, ht, hcmd⟩
    · rw [step_adds_accessError hp h hanswers ht]
      exact ⟨rfl, rfl⟩

end Sys2Proof.Machine
end

section
/-! PROOFS. The obligations on runs, launches and resets (70_reset_and_hazards.md): a run ends with its last action, the
launch premises determine a pixel, and the two resets have one effect. -/

namespace Sys2Proof.Machine

/-! ### A run ends with its last host action (R207, R208, 20_memory.md R61) -/

theorem run_succ_of_step {s t : State} (h : step s = .next t) (k : Nat) :
    Sys2Proof.core.run (k + 1) s = Sys2Proof.core.run k t := by
  simp only [Host.Core.run, Sys2Proof.core, h]

/-- With no action left any number of steps changes nothing. -/
theorem run_idle {s : State} (h : s.program = []) (k : Nat) : Sys2Proof.core.run k s = .next s := by
  induction k with
  | zero => rfl
  | succ k ih => rw [run_succ_of_step (step_idle h), ih]

/-- How many actions of a program are answered: all but the hard resets (log 7). -/
def answeredActions (program : List HostAction) : Nat := (program.filter fun a => a ≠ .hardReset).length

theorem step_answers_length {s t : State} {a : HostAction} {rest : List HostAction} (hp : s.program = a :: rest)
    (h : step s = .next t) : t.answers.length + answeredActions rest = s.answers.length + answeredActions (a :: rest) := by
  obtain ⟨-, -, hreset, haccess⟩ := stepConsumesOneAction s t a rest hp h
  by_cases ha : a = .hardReset
  · simp [answeredActions, hreset ha, ha]
  · obtain ⟨ans, hans⟩ := haccess ha
    simp [answeredActions, hans, ha]
    omega

/-- As many steps as there are actions use the program up and answer each access. -/
theorem exists_run_program {program : List HostAction} {s : State} (hp : s.program = program) :
    ∃ t, Sys2Proof.core.run program.length s = .next t ∧ t.program = [] ∧ t.s2le = s.s2le ∧
      t.answers.length = s.answers.length + answeredActions program := by
  induction program generalizing s with
  | nil => exact ⟨s, rfl, hp, rfl, rfl⟩
  | cons a rest ih =>
    obtain ⟨u, hu⟩ := everyStepAnswersNext s
    obtain ⟨hrest, hus2le, -⟩ := stepConsumesOneAction s u a rest hp hu
    obtain ⟨t, ht, hprogram, hs2le, hanswers⟩ := ih hrest
    exact ⟨t, (run_succ_of_step hu _).trans ht, hprogram, hs2le.trans hus2le,
      hanswers.trans (step_answers_length hp hu)⟩

/-- Settles O11, by induction on the program; the state it ends in is idle. -/
theorem runEndsWithItsLastAction : Obligations.RunEndsWithItsLastAction := by
  intro s
  obtain ⟨t, ht, hprogram, hs2le, hanswers⟩ := exists_run_program (s := s) rfl
  exact ⟨t, ht, hprogram, hs2le, hanswers, run_idle hprogram⟩

/-! ### The launch premises of a `PIX` (R204, 40_pix.md R91) -/

/-- A read over bytes `IBUF` holds in a row is their little-endian value (00_scope.md R16). -/
theorem memRead_of_bytes {bytes : List Byte} {s : State} {k : Nat}
    (h : ∀ j (hj : j < bytes.length), ibufByte s (k + j) = bytes[j]) :
    memRead s k bytes.length = bytes.foldr (fun b acc => b.toNat + 256 * acc) 0 := by
  induction bytes generalizing k with
  | nil => rfl
  | cons b bytes ih =>
    have hfirst : ibufByte s k = b := h 0 (Nat.zero_lt_succ _)
    have hrest := ih (k := k + 1) fun j hj => by
      rw [Nat.add_right_comm]
      exact h (j + 1) (Nat.succ_lt_succ hj)
    rw [List.length_cons, memRead_succ, hfirst, hrest, List.foldr_cons]

theorem Loaded.memRead_eq {bytes : List Byte} {s : State} (h : Loaded bytes s) :
    memRead s 0 bytes.length = bytes.foldr (fun b acc => b.toNat + 256 * acc) 0 :=
  memRead_of_bytes fun j hj => by
    obtain ⟨-, hbyte⟩ := h j hj
    rw [Nat.zero_add, hbyte]

theorem Configured.pixelSample_eq {pb : BitVec 3} {mr mg mb ma : Word} {ae : Bool} {s : State}
    (h : Configured pb mr mg mb ma ae s) (word : Word) :
    pixelSample s word = rgba (lane word mr) (lane word mg) (lane word mb) (lane word ma) := by
  obtain ⟨-, rfl, rfl, rfl, rfl, -⟩ := h
  rfl

/-- A command placed for the next step is performed as the host's line for it. -/
theorem step_withFetchWord_eq_perform (s : State) (i : Instr) :
    step (s.withFetchWord 32 (encode i).toNat) = performAction (cmdLine i) s :=
  (step_withFetchWord s _).trans (performAction_commandWrite _ s).symm

/-- Settles O40: the step runs `pix 0, dst` inside `IBUF`, its pixel word is the loaded bytes and its sample the configured
lanes. -/
theorem launchPremisesDetermineThePixel : Obligations.LaunchPremisesDetermineThePixel := by
  intro s pb mr mg mb ma ae bytes dst word hf hconf hload hpos hle hlen hword
  obtain rfl : s.pixelBytes = pb := hconf.1
  have hrun : step (s.withFetchWord 32 (encode (.pix 0#4 dst)).toNat) =
      .next (writeSample dst (pixelSample s (pixelWord s 0#4)) (answered .done s)) :=
    (step_withFetchWord_eq_perform s _).trans (performAction_pixLine hf hpos hle (by simp; omega) dst)
  have hpixel : pixelWord s 0#4 = word := by
    apply BitVec.eq_of_toNat_eq
    rw [pixelWord_toNat s 0#4 hle, hword, ← hload.memRead_eq, hlen]
    rfl
  rw [encode_pix_toNat] at hrun
  refine ⟨_, hrun, ?_, hf, rfl⟩
  rw [writeSample_getElem?_self, hpixel, hconf.pixelSample_eq]

/-! ### The two resets (R200) -/

/-- Settles O18: both steps go to `resetBlock`, whose registers hold their reset values. -/
theorem resetsHaveOneEffect : Obligations.ResetsHaveOneEffect := by
  intro s v rest hv
  refine ⟨_, _, step_hardReset rfl, step_softReset rfl hv, rfl, ?_⟩
  simpa using idIsConstant (resetBlock { s with program := rest })

end Sys2Proof.Machine
end
